-- ==== Sys2Proof/Word.lean ====
section
/-! DEFINITION. The values of the machine. Every architectural value is a mathematical integer, `Int`, and an address is a
natural number, `Nat` (R6, R7; decision D1; log entry 7); the types are written as they are, so that integer arithmetic is
Lean's own. -/

namespace Sys2Proof

/-- One set cell of memory: its address and the whole integer it holds (R50). The machine has no bytes (R55), so the cell
is the unit of storage (log entry 1). -/
abbrev Cell := Nat × Int

end Sys2Proof
end

