-- ==== Sys2Proof/Config.lean ====
section
/-! DEFINITION. The implementation parameters of R6 that are not unbounded widths: the policy for unused mode digits. -/

namespace Sys2Proof

/-- What a non-zero mode digit at a parameter position the opcode does not use does (R6, R80; decision D9): `fault` raises
InvalidMode, `ignore` executes the word as if the digit were 0. -/
inductive UnusedModePolicy where
  | fault
  | ignore
  deriving DecidableEq, Repr

/-- The value this hardware takes (R6: "`fault`"; decision D9; log entry 6). -/
def Config.unusedModePolicy : UnusedModePolicy := .fault

end Sys2Proof
end

