-- ==== Sys2Proof/Syntax.lean ====
section
/-! DEFINITION. The instructions as syntax: addressing modes, parameters, opcodes with their parameter kinds, and the ONE
inductive of instructions, one constructor per row of spec/opcode_table.json. -/

namespace Sys2Proof

/-- The three parameter modes (R75): "0 = position, 1 = immediate, 2 = relative". -/
inductive Mode where
  | position
  | immediate
  | relative
  deriving DecidableEq, Repr

/-- A parameter's kind (R73): its value is used, or its effective address is the destination. -/
inductive Kind where
  | read
  | write
  deriving DecidableEq, Repr

/-- A parameter of an instruction: the mode its digit names (R75) and its parameter word, any integer (R74). -/
structure Param where
  mode : Mode
  word : Int
  deriving DecidableEq, Repr

/-- The ten opcodes (R72, R76). -/
inductive Opcode where
  | add
  | mul
  | inp
  | out
  | jt
  | jf
  | lt
  | eq
  | arb
  | hlt
  deriving DecidableEq, Repr

/-- The kinds of an opcode's parameters in order (R73: formats F3, F2, F1W, F1R, F0). -/
def Opcode.kinds : Opcode → List Kind
  | .add => [.read, .read, .write]
  | .mul => [.read, .read, .write]
  | .inp => [.write]
  | .out => [.read]
  | .jt => [.read, .read]
  | .jf => [.read, .read]
  | .lt => [.read, .read, .write]
  | .eq => [.read, .read, .write]
  | .arb => [.read]
  | .hlt => []

/-- The number of parameter words `n` (R72). -/
def Opcode.nparams (op : Opcode) : Nat := op.kinds.length

/-- An instruction with its parameters in order (R70, R73). The destination of a three-parameter instruction is parameter 3;
the destination of IN is its only parameter. -/
inductive Instr where
  | add (a b dst : Param)
  | mul (a b dst : Param)
  | inp (dst : Param)
  | out (a : Param)
  | jt (cond target : Param)
  | jf (cond target : Param)
  | lt (a b dst : Param)
  | eq (a b dst : Param)
  | arb (a : Param)
  | hlt
  deriving DecidableEq, Repr

/-- The opcode of an instruction. -/
def Instr.opcode : Instr → Opcode
  | .add _ _ _ => .add
  | .mul _ _ _ => .mul
  | .inp _ => .inp
  | .out _ => .out
  | .jt _ _ => .jt
  | .jf _ _ => .jf
  | .lt _ _ _ => .lt
  | .eq _ _ _ => .eq
  | .arb _ => .arb
  | .hlt => .hlt

/-- The parameters of an instruction, parameter 1 first. -/
def Instr.params : Instr → List Param
  | .add a b d => [a, b, d]
  | .mul a b d => [a, b, d]
  | .inp d => [d]
  | .out a => [a]
  | .jt c t => [c, t]
  | .jf c t => [c, t]
  | .lt a b d => [a, b, d]
  | .eq a b d => [a, b, d]
  | .arb a => [a]
  | .hlt => []

/-- The length of an instruction in cells (R70, R72, R84): `1 + n`. -/
def Instr.length (i : Instr) : Nat := 1 + i.opcode.nparams

end Sys2Proof
end

