-- ==== Sys2Proof/WellFormed.lean ====
section
/-! DEFINITION. When an instruction is well formed: every write parameter is in position or relative mode (R75, R79). -/

namespace Sys2Proof

/-- A parameter's mode is legal for its kind (R75): a read parameter takes all three modes, a write parameter not immediate. -/
def Param.legalFor (p : Param) : Kind → Bool
  | .read => true
  | .write => p.mode != .immediate

/-- The one check of an instruction: its destination, where it has one, is not in immediate mode (R75: "immediate mode is
invalid for a write target"; R79). -/
def Instr.wellFormed : Instr → Bool
  | .add _ _ d => d.legalFor .write
  | .mul _ _ d => d.legalFor .write
  | .inp d => d.legalFor .write
  | .out _ => true
  | .jt _ _ => true
  | .jf _ _ => true
  | .lt _ _ d => d.legalFor .write
  | .eq _ _ d => d.legalFor .write
  | .arb _ => true
  | .hlt => true

end Sys2Proof
end

