-- ==== Sys2Proof/Decode.lean ====
section
/-! DEFINITION. The Instruction Decoder (R71, R103), the mode check (R104), the decoding of a list of cells, and after them
the encoder (R87) written from the same tables. -/

namespace Sys2Proof

/-- Why an instruction word is refused: the causes of R201 and R202 with the instruction word they record. -/
inductive WordError where
  | invalidOpcode (w : Int)
  | invalidMode (w : Int)
  deriving DecidableEq, Repr

/-- Why a list of cells is no instruction: its instruction word is refused, or the list ends before the instruction does
(which cannot happen in the machine's unbounded memory, R53). -/
inductive DecodeError where
  | word (e : WordError)
  | truncated
  deriving DecidableEq, Repr

/-- The opcode of a value of `w mod 100` (R72, R76); every other value is illegal (R77). -/
def Opcode.ofCode : Nat → Option Opcode
  | 1 => some .add
  | 2 => some .mul
  | 3 => some .inp
  | 4 => some .out
  | 5 => some .jt
  | 6 => some .jf
  | 7 => some .lt
  | 8 => some .eq
  | 9 => some .arb
  | 99 => some .hlt
  | _ => none

/-- The decimal digit of weight `10^k` of a natural number (R7). -/
def digit (k n : Nat) : Nat := n / 10 ^ k % 10

/-- The fields of an instruction word: the opcode and the three mode digits as they stand (R71). -/
structure Fields where
  op : Opcode
  m1 : Nat
  m2 : Nat
  m3 : Nat
  deriving DecidableEq, Repr

/-- `decode(w)` of R103: a negative word (R81), a word of more than five digits (R82) and an opcode outside the table (R77)
are InvalidOpcode; otherwise the opcode and the three mode digits. -/
def splitWord (w : Int) : Except WordError Fields :=
  if w < 0 then .error (.invalidOpcode w)
  else if 100000 ≤ w then .error (.invalidOpcode w)
  else
    match Opcode.ofCode (w.toNat % 100) with
    | none => .error (.invalidOpcode w)
    | some op => .ok ⟨op, digit 2 w.toNat, digit 3 w.toNat, digit 4 w.toNat⟩

/-- The mode a digit names at a parameter position (R75, R104): a read parameter takes 0, 1, 2 (R78), a write parameter 0, 2
(R79); an unused position takes 0 under `fault` and any digit, read as 0, under `ignore` (R80). -/
def modeOf (policy : UnusedModePolicy) : Option Kind → Nat → Option Mode
  | some .read, 0 => some .position
  | some .read, 1 => some .immediate
  | some .read, 2 => some .relative
  | some .read, _ => none
  | some .write, 0 => some .position
  | some .write, 2 => some .relative
  | some .write, _ => none
  | none, 0 => some .position
  | none, _ =>
    match policy with
    | .fault => none
    | .ignore => some .position

/-- An opcode with the mode of each parameter position; an unused position holds `position`. -/
structure Header where
  op : Opcode
  m1 : Mode
  m2 : Mode
  m3 : Mode
  deriving DecidableEq, Repr

/-- `check_modes` of R104: every failing digit raises the same InvalidMode with the instruction word. -/
def checkModes (policy : UnusedModePolicy) (w : Int) (f : Fields) : Except WordError Header :=
  match modeOf policy f.op.kinds[0]? f.m1, modeOf policy f.op.kinds[1]? f.m2, modeOf policy f.op.kinds[2]? f.m3 with
  | some m1, some m2, some m3 => .ok ⟨f.op, m1, m2, m3⟩
  | _, _, _ => .error (.invalidMode w)

/-- Steps 3 and 4 of the cycle (R100) under a policy for unused digits: decode, then check the modes, so an illegal opcode
is reported before an illegal mode (R207). -/
def decodeHeaderWith (policy : UnusedModePolicy) (w : Int) : Except WordError Header :=
  match splitWord w with
  | .error e => .error e
  | .ok f => checkModes policy w f

/-- Steps 3 and 4 of the cycle on this hardware (R103, R104; `UNUSED_MODE_POLICY = fault`). -/
def decodeHeader (w : Int) : Except WordError Header := decodeHeaderWith Config.unusedModePolicy w

/-- The instruction a header makes with its parameter words, parameter 1 first (R70, R74). -/
def Header.assemble (h : Header) (ps : List Int) : Instr :=
  let p1 : Param := ⟨h.m1, ps.getD 0 0⟩
  let p2 : Param := ⟨h.m2, ps.getD 1 0⟩
  let p3 : Param := ⟨h.m3, ps.getD 2 0⟩
  match h.op with
  | .add => .add p1 p2 p3
  | .mul => .mul p1 p2 p3
  | .inp => .inp p1
  | .out => .out p1
  | .jt => .jt p1 p2
  | .jf => .jf p1 p2
  | .lt => .lt p1 p2 p3
  | .eq => .eq p1 p2 p3
  | .arb => .arb p1
  | .hlt => .hlt

/-- The decoder over a list of cells under a policy: the instruction at its head and the cells after it (R70, R84: the
length is read from the opcode alone). Total, rejecting by name. -/
def decodeWith (policy : UnusedModePolicy) : List Int → Except DecodeError (Instr × List Int)
  | [] => .error .truncated
  | w :: rest =>
    match decodeHeaderWith policy w with
    | .error e => .error (.word e)
    | .ok h =>
      if rest.length < h.op.nparams then .error .truncated
      else .ok (h.assemble (rest.take h.op.nparams), rest.drop h.op.nparams)

/-- The decoder of this hardware over a list of cells. -/
def decode (ws : List Int) : Except DecodeError (Instr × List Int) := decodeWith Config.unusedModePolicy ws

/-! ## The encoder -/

/-- The value of the low two digits that selects an opcode (R72). -/
def Opcode.code : Opcode → Nat
  | .add => 1
  | .mul => 2
  | .inp => 3
  | .out => 4
  | .jt => 5
  | .jf => 6
  | .lt => 7
  | .eq => 8
  | .arb => 9
  | .hlt => 99

/-- The digit of a mode (R75). -/
def Mode.digit : Mode → Nat
  | .position => 0
  | .immediate => 1
  | .relative => 2

/-- The mode digit of parameter position `k` (0 for parameter 1), 0 where the instruction has no such parameter. -/
def Instr.modeDigit (i : Instr) (k : Nat) : Nat :=
  match i.params[k]? with
  | some p => p.mode.digit
  | none => 0

/-- The instruction word of an instruction: `10000*m3 + 1000*m2 + 100*m1 + op` (R71, R87). It is defined on ill-formed
instructions too, whose word is then the one that raises InvalidMode (R79). -/
def Instr.headWord (i : Instr) : Int :=
  Int.ofNat (10000 * i.modeDigit 2 + 1000 * i.modeDigit 1 + 100 * i.modeDigit 0 + i.opcode.code)

/-- The cells of an instruction: its instruction word, then its parameter words (R70, R87). -/
def encode (i : Instr) : List Int := i.headWord :: i.params.map Param.word

/-! ## The host's reading of an opcode-table word -/

/-- The instruction the decoder reads from an instruction whose instruction word is the number `w` and whose parameter words
are 0. The machine's words have no width and no bits (R7, R55), so `w` is the instruction word's value and `nbits` says
nothing (log entry 8). -/
def decodeTableWord (_nbits w : Nat) : Option Instr :=
  match decode [Int.ofNat w, 0, 0, 0] with
  | .ok (i, _) => some i
  | .error _ => none

end Sys2Proof
end

