-- ==== Sys2Proof/Machine/State.lean ====
section
/-! DEFINITION. The state of one VM Instance, exactly the fields of R20, the reasons a step or a host operation can stop, and
the state after reset. -/

namespace Sys2Proof.Machine

/-- `STATUS` (R27): "States: `Running`, `PausedOnOutputCount`, `PausedOnInputCount`, `Halted`" and the spec's fifth value
`Faulted` (decision D11). -/
inductive Status where
  | running
  | pausedOnOutputCount
  | pausedOnInputCount
  | halted
  | faulted
  deriving DecidableEq, Repr

/-- `INPUT_MODE` (R32): what IN does when the queue is empty. -/
inductive InputMode where
  | queued
  | defaulted (d : Int)
  | interactive
  deriving DecidableEq, Repr

/-- The causes of R200. The first four are latched in `FAULT`; `badDiagnostic` is only an answer to the host's query. -/
inductive Cause where
  | invalidOpcode
  | invalidMode
  | negativeAddress
  | inputExhausted
  | badDiagnostic
  deriving DecidableEq, Repr

/-- The record of a fatal condition (R31): the cause, `IP` at the start of the faulting cycle, and the value R200 records. -/
structure FaultRecord where
  cause : Cause
  ip : Int
  info : Int
  deriving DecidableEq, Repr

/-- `MEM` as the list of its set cells (R33). What an unlisted address reads as is 0 (R51: "returns stored value or 0 if
unset"); the canonical form is `Memory.wf` (log entry 1). -/
abbrev Memory := List Cell

/-- One VM Instance (R20). -/
structure State where
  mem : Memory
  ip : Int
  rb : Int
  inq : List Int
  out : List Int
  status : Status
  active : Bool
  outCount : Nat
  inCount : Nat
  maxOut : Option Nat
  maxIn : Option Nat
  idle : Bool
  fault : Option FaultRecord
  inputMode : InputMode
  deriving DecidableEq, Repr

/-- Why `step` stops with a fault. -/
inductive Fault where
  /-- Raised by `step` on an instance at rest whose `FAULT` holds a record (R210: no retry; R180): the fatal condition itself
  was a next state (fault entry, R208), and no step leaves it. Safe (log entry 5). -/
  | latched (cause : Cause)
  deriving DecidableEq, Repr

/-- Why a step or a host operation has no meaning. -/
inductive Refusal where
  /-- Raised by `exec` for an instruction without a meaning; no arm of this model raises it. Safe. -/
  | notModelled (mnemonic : String)
  /-- Raised by `perform`: a host operation while the engine is inside a run (R171, R235). Safe. -/
  | hostWhileActive
  /-- Raised by `perform`: an operation other than `run`, `status`, `fault`, `new` on a Faulted instance (R171, U8). Safe. -/
  | hostAfterFault
  /-- Raised by `perform`: `run` with a negative limit (R178). Safe. -/
  | negativeLimit
  /-- Raised by `perform`: `memory_read` or `memory_write` at a negative address (R184, R185). Safe. -/
  | negativeHostAddress
  /-- Raised by `perform`: `new` asked for both a default input and the interactive variant (R231, U22). Safe. -/
  | bothInputVariants
  /-- Raised by `actOn`: `run` or an engine step of one instance while another is inside a run (R217). Safe (log entry 14). -/
  | anotherInstanceRuns
  /-- Raised by `actOn`: the host names an instance that was never constructed (R217). Safe (log entry 14). -/
  | noSuchInstance
  deriving DecidableEq, Repr

/-- The instance right after `new` with the empty program, no inputs and the default (queued) variant: every field at the
value of R37 and R231 (log entry 2 for the arguments). -/
def State.reset : State where
  mem := []
  ip := 0
  rb := 0
  inq := []
  out := []
  status := .running
  active := false
  outCount := 0
  inCount := 0
  maxOut := none
  maxIn := none
  idle := false
  fault := none
  inputMode := .queued

end Sys2Proof.Machine
end

