-- ==== Sys2Proof/Machine/Ops.lean ====
section
/-! DEFINITION. The named operations over memory and the control state: MemRead and MemWrite, the program image, the advance
of IP, pause, halt and FAULT ENTRY (the machine's one way of taking an exception; there is no return from it, R210). -/

namespace Sys2Proof.Machine

/-- What every meaning and every step answers. -/
abbrev Answer := Host.Outcome State Fault Refusal

/-! ## Memory -/

/-- `MemRead(a, 1)` (R51): the value of the cell at `a`, 0 if unset. -/
def Memory.read : Memory → Nat → Int
  | [], _ => 0
  | (b, w) :: m, a => if a = b then w else Memory.read m a

/-- `MemWrite(a, 1, v)` (R52): the cell at `a` holds `v`, no other cell changes. Writing 0, what an unset cell reads as,
removes the entry, so that equal memories are equal lists. -/
def Memory.write : Memory → Nat → Int → Memory
  | [], a, v => if v = 0 then [] else [(a, v)]
  | (b, w) :: m, a, v =>
    if a < b then (if v = 0 then (b, w) :: m else (a, v) :: (b, w) :: m)
    else if a = b then (if v = 0 then m else (a, v) :: m)
    else (b, w) :: Memory.write m a v

/-- The canonical form from an address on: addresses at least `lo` and strictly rising, no entry equal to 0. -/
def Memory.wfFrom : Nat → Memory → Bool
  | _, [] => true
  | lo, (a, v) :: m => decide (lo ≤ a) && decide (v ≠ 0) && Memory.wfFrom (a + 1) m

/-- The canonical form of a memory. -/
def Memory.wf (m : Memory) : Bool := Memory.wfFrom 0 m

/-- The memory in which the cells from `base` on hold a sequence of integers and every other cell is unset (R59, R231). -/
def Memory.image : Nat → List Int → Memory
  | _, [] => []
  | base, w :: ws => if w = 0 then Memory.image (base + 1) ws else (base, w) :: Memory.image (base + 1) ws

/-- Writes a sequence of integers to consecutive cells from `base` on. -/
def Memory.writeList : Memory → Nat → List Int → Memory
  | m, _, [] => m
  | m, base, w :: ws => Memory.writeList (m.write base w) (base + 1) ws

/-! ## The state after construction -/

/-- The instance right after `new` (R231): the program image at address 0 on, the initial inputs in order, every other field
at its reset value. -/
def construct (program initialInputs : List Int) (mode : InputMode) : State :=
  { State.reset with mem := Memory.image 0 program, inq := initialInputs, inputMode := mode }

/-! ## Updates -/

/-- The one write of an instruction (R52, R57). -/
def State.storeCell (s : State) (dst : Nat) (v : Int) : State := { s with mem := s.mem.write dst v }

/-- Step 8 of the cycle (R111): `IP <- IP + length`, exact addition. -/
def State.advance (s : State) (length : Nat) : State := { s with ip := s.ip + Int.ofNat length }

/-- A taken jump (R152): the target becomes `IP` as it stands, negative targets included. -/
def State.jumpTo (s : State) (target : Int) : State := { s with ip := target }

/-- ARB's effect (R160). -/
def State.adjustBase (s : State) (v : Int) : State := { s with rb := s.rb + v }

/-- OUT's effect (R141): append to the log, count the output. -/
def State.appendOutput (s : State) (v : Int) : State :=
  { s with out := s.out ++ [v], outCount := s.outCount + 1 }

/-- An executed input instruction is counted (R29, R140), a defaulted one too (decision D29). -/
def State.countInput (s : State) : State := { s with inCount := s.inCount + 1 }

/-- `pause(S)` (R174): nothing else changes. -/
def State.pause (s : State) (st : Status) : State := { s with status := st, active := false }

/-- HLT's effect (R161); the advance of IP is step 8's. -/
def State.halt (s : State) : State := { s with status := .halted, active := false }

/-- FAULT ENTRY, `raise C(info)` (R208): the record is written with `IP` as at the start of the cycle, the status becomes
Faulted, the run ends; nothing else changes (R209). There is no handler, no vector and no return (R208, R210). -/
def State.raiseFault (s : State) (c : Cause) (info : Int) : State :=
  { s with fault := some ⟨c, s.ip, info⟩, status := .faulted, active := false }

/-- The start of a run (R172): the counts begin at 0, the limits are latched, the engine is running and active. -/
def State.startRun (s : State) (maxOut maxIn : Option Nat) : State :=
  { s with outCount := 0, inCount := 0, maxOut := maxOut, maxIn := maxIn, status := .running, active := true }

/-! ## Causes -/

/-- The code of a cause (R200; decision D10). -/
def Cause.code : Cause → Nat
  | .invalidOpcode => 1
  | .invalidMode => 2
  | .negativeAddress => 3
  | .inputExhausted => 4
  | .badDiagnostic => 5

/-- Whether a cause is latched in `FAULT` (R200, R205). -/
def Cause.latches : Cause → Bool
  | .invalidOpcode => true
  | .invalidMode => true
  | .negativeAddress => true
  | .inputExhausted => true
  | .badDiagnostic => false

/-- The limit checks (R175, R176): "`MAX = some n` and `COUNT = n`". -/
def limitReached (limit : Option Nat) (count : Nat) : Bool := decide (limit = some count)

end Sys2Proof.Machine
end

