-- ==== Sys2Proof/Machine/Operands.lean ====
section
/-! DEFINITION. The Parameter Resolver (R106, R107, R108): every operand form, and the shared steps 4 and 6 of a cycle as the
meanings use them. -/

namespace Sys2Proof.Machine

/-- The sign check of an effective address (R108): a natural address, or the negative integer that is refused. -/
def checkAddress (a : Int) : Except Int Nat := if a < 0 then .error a else .ok a.toNat

/-- The integer a position or relative parameter names as its address (R106, R107): the parameter word, or `RB` plus it. An
immediate parameter has none. -/
def effectiveAddress (s : State) (p : Param) : Option Int :=
  match p.mode with
  | .position => some p.word
  | .immediate => none
  | .relative => some (s.rb + p.word)

/-- `resolve_read` (R106): the value of a read parameter, or the negative effective address. -/
def resolveRead (s : State) (p : Param) : Except Int Int :=
  match effectiveAddress s p with
  | none => .ok p.word
  | some a =>
    match checkAddress a with
    | .ok n => .ok (s.mem.read n)
    | .error e => .error e

/-- `resolve_write_address` (R107): the destination of a write parameter, or the negative effective address. Immediate mode
never reaches it (step 4, R104); on an ill-formed parameter it gives the sign check of the parameter word. -/
def resolveWrite (s : State) (p : Param) : Except Int Nat :=
  match effectiveAddress s p with
  | none => checkAddress p.word
  | some a => checkAddress a

/-- Step 4 for an instruction given as a term (R104): an immediate destination raises InvalidMode with the instruction word
(R79). The decoder never produces such a term; the arm makes every meaning total (log entry 9). -/
def withLegalModes (i : Instr) (s : State) (k : Answer) : Answer :=
  if i.wellFormed then k else .next (s.raiseFault .invalidMode i.headWord)

/-- Step 6 for a read parameter (R100): its value, or NegativeAddress raised with the offending address (R203). -/
def withRead (p : Param) (s : State) (k : Int → Answer) : Answer :=
  match resolveRead s p with
  | .ok v => k v
  | .error a => .next (s.raiseFault .negativeAddress a)

/-- Step 6 for a write parameter (R100): its address, or NegativeAddress raised with the offending address (R203). -/
def withDst (p : Param) (s : State) (k : Nat → Answer) : Answer :=
  match resolveWrite s p with
  | .ok a => k a
  | .error a => .next (s.raiseFault .negativeAddress a)

end Sys2Proof.Machine
end

