-- ==== Sys2Proof/Machine/Flags.lean ====
section
/-! DEFINITION. The machine's one flag, IDLE (R30), and the 0-or-1 results that stand in for condition codes (R132, R133). -/

namespace Sys2Proof.Machine

/-- A queued value was taken (R30, R140): the queue loses its head and IDLE is false. -/
def State.takeQueued (s : State) (rest : List Int) : State := { s with inq := rest, idle := false }

/-- The default was returned (R30, R143): IDLE is true; the queue stays empty. -/
def State.takeDefault (s : State) : State := { s with idle := true }

/-- The result of a comparison (R132, R133): exactly 1 or 0. -/
def truth (b : Bool) : Int := if b then 1 else 0

end Sys2Proof.Machine
end

