-- ==== Sys2Proof/Machine/Alu.lean ====
section
/-! DEFINITION. The arithmetic and comparison instructions ADD, MUL, LT, EQ (R130 to R135), format F3. -/

namespace Sys2Proof.Machine

/-- ADD's result (R130, R134): the exact sum. -/
def aluAdd (x y : Int) : Int := x + y

/-- MUL's result (R131, R134): the exact product. -/
def aluMul (x y : Int) : Int := x * y

/-- LT's result (R132, R135): the signed order of the integers. -/
def aluLt (x y : Int) : Int := truth (decide (x < y))

/-- EQ's result (R133, R135): equality of the integers. -/
def aluEq (x y : Int) : Int := truth (decide (x = y))

/-- The common course of the four (R100 steps 4, 6, 7, 8): modes, parameter 1, parameter 2, destination, the one write, and
the advance by 4. Both sources are read before the write (R113). -/
def storeResult (i : Instr) (f : Int → Int → Int) (a b dst : Param) (s : State) : Answer :=
  withLegalModes i s <|
    withRead a s fun x =>
      withRead b s fun y =>
        withDst dst s fun d =>
          .next ((s.storeCell d (f x y)).advance 4)

/-- ADD, opcode 1 (R130). -/
def execAdd (a b dst : Param) (s : State) : Answer := storeResult (.add a b dst) aluAdd a b dst s

/-- MUL, opcode 2 (R131). -/
def execMul (a b dst : Param) (s : State) : Answer := storeResult (.mul a b dst) aluMul a b dst s

/-- LT, opcode 7 (R132). -/
def execLt (a b dst : Param) (s : State) : Answer := storeResult (.lt a b dst) aluLt a b dst s

/-- EQ, opcode 8 (R133). -/
def execEq (a b dst : Param) (s : State) : Answer := storeResult (.eq a b dst) aluEq a b dst s

end Sys2Proof.Machine
end

