-- ==== Sys2Proof/Machine/InputOutput.lean ====
section
/-! DEFINITION. The input and output instructions IN and OUT and their controllers (R140 to R147). -/

namespace Sys2Proof.Machine

/-- What step 7 of IN finds, in the order R140 looks: the input-count limit, a queued value, or the variant's behaviour on an
empty queue. -/
inductive InputSource where
  | limit
  | queued (v : Int) (rest : List Int)
  | exhausted
  | default (d : Int)
  | hold
  deriving DecidableEq, Repr

/-- The input queue controller as IN sees it (R140, R142, R143, R144, R146). -/
def inputSource (s : State) : InputSource :=
  if limitReached s.maxIn s.inCount then .limit
  else
    match s.inq with
    | v :: rest => .queued v rest
    | [] =>
      match s.inputMode with
      | .queued => .exhausted
      | .defaulted d => .default d
      | .interactive => .hold

/-- Step 7 of IN with the destination resolved (R140). The hold of the interactive variant (R144) is a next state in which
nothing has changed: the next step looks at the queue again (log entry 4). -/
def input (dst : Nat) (s : State) : Answer :=
  match inputSource s with
  | .limit => .next (s.pause .pausedOnInputCount)
  | .queued v rest => .next ((((s.takeQueued rest).storeCell dst v).countInput).advance 2)
  | .exhausted => .next (s.raiseFault .inputExhausted 0)
  | .default d => .next (((s.takeDefault.storeCell dst d).countInput).advance 2)
  | .hold => .next s

/-- IN, opcode 3 (R140): the destination is resolved before the limit and the queue are looked at (R109 (b)). -/
def execIn (dst : Param) (s : State) : Answer :=
  withLegalModes (.inp dst) s <| withDst dst s fun d => input d s

/-- OUT, opcode 4 (R141). -/
def execOut (a : Param) (s : State) : Answer :=
  withRead a s fun v => .next ((s.appendOutput v).advance 2)

end Sys2Proof.Machine
end

