-- ==== Sys2Proof/Machine/Jumps.lean ====
section
/-! DEFINITION. The control transfer instructions JT and JF (R150 to R152). -/

namespace Sys2Proof.Machine

/-- The common course of the two jumps: both parameters are resolved, the target too when the jump is not taken (R109 (a));
taken, the target becomes IP; not taken, IP advances by 3. -/
def jumpIf (test : Int → Bool) (cond target : Param) (s : State) : Answer :=
  withRead cond s fun c =>
    withRead target s fun t =>
      .next (if test c then s.jumpTo t else s.advance 3)

/-- JT, opcode 5 (R150): taken when the condition is not 0. -/
def execJt (cond target : Param) (s : State) : Answer := jumpIf (fun c => decide (c ≠ 0)) cond target s

/-- JF, opcode 6 (R151): taken when the condition is 0. -/
def execJf (cond target : Param) (s : State) : Answer := jumpIf (fun c => decide (c = 0)) cond target s

end Sys2Proof.Machine
end

