-- ==== Sys2Proof/Machine/System.lean ====
section
/-! DEFINITION. The register and system instructions ARB and HLT (R160, R161). -/

namespace Sys2Proof.Machine

/-- ARB, opcode 9 (R160): the operand is read at the old RB, then RB changes. -/
def execArb (a : Param) (s : State) : Answer :=
  withRead a s fun v => .next ((s.adjustBase v).advance 2)

/-- HLT, opcode 99 (R161): the machine halts and step 8 still advances IP by 1 (R111; decision D19). -/
def execHlt (s : State) : Answer := .next (s.halt.advance 1)

end Sys2Proof.Machine
end

