-- ==== Sys2Proof/Machine/Cycle.lean ====
section
/-! DEFINITION. The fetch-decode-execute cycle (R100 to R105, R207), the engine's step with its resting states (R28, R218), and
the placing of an instruction where the next step fetches it. -/

namespace Sys2Proof.Machine

/-- The parameter words of the instruction at `IP` (R74, R105): the `n` cells after the instruction word, and no others. -/
def paramWords (s : State) (n : Nat) : List Int :=
  (List.range n).map fun k => s.mem.read (s.ip.toNat + 1 + k)

/-- Steps 2 to 5 at a non-negative `IP` (R102 to R105): the instruction word is read, decoded and its modes checked, then its
parameter words are read. Memory is read anew at every fetch (R63). -/
def fetch (s : State) : Except WordError Instr :=
  match decodeHeader (s.mem.read s.ip.toNat) with
  | .error e => .error e
  | .ok h => .ok (h.assemble (paramWords s h.op.nparams))

/-- A refused instruction word raises the cause it names, with the word as `info` (R201, R202). -/
def raiseWordError (s : State) : WordError → State
  | .invalidOpcode w => s.raiseFault .invalidOpcode w
  | .invalidMode w => s.raiseFault .invalidMode w

/-- One cycle (R100), its checks in the order of R207: the output-count pause, a negative `IP`, the instruction word, then the
instruction itself. -/
def cycle (s : State) : Answer :=
  if limitReached s.maxOut s.outCount then .next (s.pause .pausedOnOutputCount)
  else if s.ip < 0 then .next (s.raiseFault .negativeAddress s.ip)
  else
    match fetch s with
    | .error e => .next (raiseWordError s e)
    | .ok i => exec i s

/-- One step of the engine. Inside a run it takes a cycle (R28). At rest it takes none: a faulted instance stops with its
latched fault (R180, R210; log entry 5), every other instance rests as it is until the host acts (R174, R218; log entry 3). -/
def engineStep (s : State) : Answer :=
  if s.active then cycle s
  else
    match s.fault with
    | some f => .fault (.latched f.cause)
    | none => .next s

/-- The state in which the very next step fetches an instruction whose instruction word is `w` and whose parameter words are
0: a run without limits has just started (R172), `IP` is made an address if it was none, the latched fault is gone, and the
four cells at `IP` hold the instruction (log entry 8). -/
def placeInstruction (s : State) (w : Int) : State :=
  let ip : Int := if s.ip < 0 then 0 else s.ip
  { s.startRun none none with ip := ip, fault := none, mem := s.mem.writeList ip.toNat [w, 0, 0, 0] }

end Sys2Proof.Machine
end

