-- ==== Sys2Proof/Machine/Step.lean ====
section
/-! DEFINITION. The step of the machine, and the state in which the next step runs a given instruction. -/

namespace Sys2Proof.Machine

/-- One step of the engine (R28, R100). -/
def step (s : State) : Host.Outcome State Fault Refusal := engineStep s

/-- `s` with the instruction whose instruction word is the number `w` placed where the next step fetches and runs it. The
machine's words have no bits (R7, R55), so `nbits` says nothing (log entry 8). -/
def State.withFetchWord (s : State) (_nbits w : Nat) : State := placeInstruction s (Int.ofNat w)

end Sys2Proof.Machine
end

