-- ==== Sys2Proof/Machine/Assembly.lean ====
section
/-! DEFINITION. The assembly notation of R87 and R88 as abstract syntax, and the assembler. The text of the notation (spaces,
comments, signs) belongs to the parsing layer the spec leaves out (R4 (e), R89). -/

namespace Sys2Proof.Machine

/-- `v` of R87: a decimal integer or a label. -/
inductive AsmValue where
  | num (v : Int)
  | label (name : String)
  deriving DecidableEq, Repr

/-- An operand (R87): `[v]`, `#v`, `[rb+v]`. -/
inductive AsmOperand where
  | cell (v : AsmValue)
  | literal (v : AsmValue)
  | based (v : AsmValue)
  deriving DecidableEq, Repr

/-- A line (R87, R88): an instruction, a `DATA` directive, or a label definition. -/
inductive AsmItem where
  | instr (op : Opcode) (operands : List AsmOperand)
  | data (values : List AsmValue)
  | label (name : String)
  deriving DecidableEq, Repr

/-- The cells a line emits. -/
def AsmItem.size : AsmItem → Nat
  | .instr _ operands => 1 + operands.length
  | .data values => values.length
  | .label _ => 0

/-- The labels of a program with their addresses (R88: the address of the next emitted cell, counted from `base`). -/
def labelsFrom : Nat → List AsmItem → List (String × Nat)
  | _, [] => []
  | base, .label name :: rest => (name, base) :: labelsFrom base rest
  | base, item :: rest => labelsFrom (base + item.size) rest

/-- The integer of a value; none for a label that is not defined. -/
def AsmValue.resolve (labels : List (String × Nat)) : AsmValue → Option Int
  | .num v => some v
  | .label name => (labels.lookup name).map Int.ofNat

/-- The mode of an operand (R87). -/
def AsmOperand.mode : AsmOperand → Mode
  | .cell _ => .position
  | .literal _ => .immediate
  | .based _ => .relative

/-- The value of an operand. -/
def AsmOperand.value : AsmOperand → AsmValue
  | .cell v => v
  | .literal v => v
  | .based v => v

/-- The instruction of an opcode and its parameters; none when their number is not the opcode's (R87: "as many operands as
the opcode has parameters"). -/
def instrOf : Opcode → List Param → Option Instr
  | .add, [a, b, d] => some (.add a b d)
  | .mul, [a, b, d] => some (.mul a b d)
  | .inp, [d] => some (.inp d)
  | .out, [a] => some (.out a)
  | .jt, [c, t] => some (.jt c t)
  | .jf, [c, t] => some (.jf c t)
  | .lt, [a, b, d] => some (.lt a b d)
  | .eq, [a, b, d] => some (.eq a b d)
  | .arb, [a] => some (.arb a)
  | .hlt, [] => some .hlt
  | _, _ => none

/-- The parameter of an operand. -/
def AsmOperand.param (labels : List (String × Nat)) (o : AsmOperand) : Option Param :=
  (o.value.resolve labels).map fun w => ⟨o.mode, w⟩

/-- The cells of a line; none where an operand list does not fit its opcode, a label is not defined, or `#v` stands for a
write parameter (R87). -/
def AsmItem.emit (labels : List (String × Nat)) : AsmItem → Option (List Int)
  | .instr op operands =>
    match operands.mapM (AsmOperand.param labels) with
    | none => none
    | some ps =>
      match instrOf op ps with
      | none => none
      | some i => if i.wellFormed then some (encode i) else none
  | .data values => values.mapM (AsmValue.resolve labels)
  | .label _ => some []

/-- The program image of a list of lines (R87, R88); a label defined twice has no address and is refused (log entry 10). -/
def assemble (items : List AsmItem) : Option (List Int) :=
  let labels := labelsFrom 0 items
  if (labels.map Prod.fst).Nodup then (items.mapM (AsmItem.emit labels)).map List.flatten else none

end Sys2Proof.Machine
end

