-- ==== Sys2Proof/Machine/HostOps.lean ====
section
/-! DEFINITION. The host's side: every transaction of R170 with its permission (R171), its effect and its answer, the end of a
run (R173, R189), whole runs under fuel (R190), and the two agents' moves together (R5). -/

namespace Sys2Proof.Machine

/-- The host operations (R170). `addInput` sends one integer, `addInputs` a sequence (R182). -/
inductive HostOp where
  | new (program initialInputs : List Int) (defaultInput : Option Int) (interactive : Bool)
  | run (maxOutputs maxInputs : Option Int)
  | addInput (x : Int)
  | addInputs (xs : List Int)
  | outputLog
  | memoryRead (a : Int)
  | memoryWrite (a v : Int)
  | diagnostic
  | idle
  | status
  | fault
  | ip
  | rb
  deriving DecidableEq, Repr

/-- The result of a run (R173, R189): one of three statuses, or a fault with its cause. -/
inductive RunResult where
  | halted
  | pausedOnOutputCount
  | pausedOnInputCount
  | fault (c : Cause)
  deriving DecidableEq, Repr

/-- What the host gets back (R170). `started` says that a run began: its result is `runResult` of the state in which it has
ended. -/
inductive Reply where
  | nothing
  | started
  | result (r : RunResult)
  | log (values : List Int)
  | value (v : Int)
  | badDiagnostic
  | flag (b : Bool)
  | statusIs (st : Status)
  | faultIs (f : Option FaultRecord)
  deriving DecidableEq, Repr

/-- The answer to a host operation: the state after it and the reply, or a refusal, which leaves the state as it was (R171,
R212). -/
abbrev HostAnswer := Host.Outcome (State × Reply) Fault Refusal

/-- The result of the last run, once it has ended (R189); none while a run goes on and before the first run. -/
def runResult (s : State) : Option RunResult :=
  if s.active then none
  else
    match s.status with
    | .running => none
    | .pausedOnOutputCount => some .pausedOnOutputCount
    | .pausedOnInputCount => some .pausedOnInputCount
    | .halted => some .halted
    | .faulted => s.fault.map fun f => .fault f.cause

/-- The interactive hold (R144): the engine is inside a run, at an IN whose destination resolves and whose limit is not
reached, with an empty queue in the interactive variant. It is the one moment at which the host acts during a run. -/
def holding (s : State) : Bool :=
  s.active && !limitReached s.maxOut s.outCount && decide (0 ≤ s.ip) &&
    match fetch s with
    | .ok (.inp d) =>
      match resolveWrite s d with
      | .ok _ => decide (inputSource s = .hold)
      | .error _ => false
    | _ => false

/-- A limit of `run` (R178): absent, or a natural number; a negative one is refused. -/
def limitOf : Option Int → Option (Option Nat)
  | none => some none
  | some n => if n < 0 then none else some (some n.toNat)

/-- `diagnostic` (R186): the last output if there is one and all before it are 0; none stands for BadDiagnostic. -/
def diagnosticOf : List Int → Option Int
  | [] => none
  | [x] => some x
  | x :: y :: rest => if x = 0 then diagnosticOf (y :: rest) else none

/-- The input variant `new` selects (R231, R37); none when both a default and interactive are asked for (U22). -/
def variantOf : Option Int → Bool → Option InputMode
  | some _, true => none
  | some d, false => some (.defaulted d)
  | none, true => some .interactive
  | none, false => some .queued

/-- The operations a Faulted instance still permits (R171). -/
def HostOp.allowedAfterFault : HostOp → Bool
  | .new _ _ _ _ => true
  | .run _ _ => true
  | .status => true
  | .fault => true
  | .addInput _ => false
  | .addInputs _ => false
  | .outputLog => false
  | .memoryRead _ => false
  | .memoryWrite _ _ => false
  | .diagnostic => false
  | .idle => false
  | .ip => false
  | .rb => false

/-- The operations that append to the queue, permitted during an interactive hold (R144, R171). -/
def HostOp.suppliesInput : HostOp → Bool
  | .addInput _ => true
  | .addInputs _ => true
  | .new _ _ _ _ => false
  | .run _ _ => false
  | .status => false
  | .fault => false
  | .outputLog => false
  | .memoryRead _ => false
  | .memoryWrite _ _ => false
  | .diagnostic => false
  | .idle => false
  | .ip => false
  | .rb => false

/-- Why an operation is not permitted in a state (R171), or none where it is. -/
def notPermitted (op : HostOp) (s : State) : Option Refusal :=
  if s.active then
    if op.suppliesInput && holding s then none else some .hostWhileActive
  else if s.status = .faulted && !op.allowedAfterFault then some .hostAfterFault
  else none

/-- `new` (R231). -/
def hostNew (program initialInputs : List Int) (defaultInput : Option Int) (interactive : Bool) : HostAnswer :=
  match variantOf defaultInput interactive with
  | some mode => .next (construct program initialInputs mode, .nothing)
  | none => .refused .bothInputVariants

/-- `run` at rest with its limits (R172, R179, R180, R181): a halted or faulted instance answers its result again and nothing
changes; otherwise the engine starts. The arm of a Faulted instance without a record is one no run reaches (R36 (e)). -/
def hostRun (maxOut maxIn : Option Nat) (s : State) : HostAnswer :=
  match s.status with
  | .running => .next (s.startRun maxOut maxIn, .started)
  | .pausedOnOutputCount => .next (s.startRun maxOut maxIn, .started)
  | .pausedOnInputCount => .next (s.startRun maxOut maxIn, .started)
  | .halted => .next (s, .result .halted)
  | .faulted =>
    match s.fault with
    | some f => .next (s, .result (.fault f.cause))
    | none => .refused .hostAfterFault

/-- `add_input` (R182): the values are appended at the tail in their order; nothing else changes. -/
def State.addInputs (s : State) (xs : List Int) : State := { s with inq := s.inq ++ xs }

/-- A permitted operation (R172, R178 to R188, R231). -/
def transact (op : HostOp) (s : State) : HostAnswer :=
  match op with
  | .new program initialInputs defaultInput interactive => hostNew program initialInputs defaultInput interactive
  | .run maxOutputs maxInputs =>
    match limitOf maxOutputs, limitOf maxInputs with
    | some mo, some mi => hostRun mo mi s
    | _, _ => .refused .negativeLimit
  | .addInput x => .next (s.addInputs [x], .nothing)
  | .addInputs xs => .next (s.addInputs xs, .nothing)
  | .outputLog => .next (s, .log s.out)
  | .memoryRead a =>
    match checkAddress a with
    | .ok n => .next (s, .value (s.mem.read n))
    | .error _ => .refused .negativeHostAddress
  | .memoryWrite a v =>
    match checkAddress a with
    | .ok n => .next (s.storeCell n v, .nothing)
    | .error _ => .refused .negativeHostAddress
  | .diagnostic =>
    match diagnosticOf s.out with
    | some v => .next (s, .value v)
    | none => .next (s, .badDiagnostic)
  | .idle => .next (s, .flag s.idle)
  | .status => .next (s, .statusIs s.status)
  | .fault => .next (s, .faultIs s.fault)
  | .ip => .next (s, .value s.ip)
  | .rb => .next (s, .value s.rb)

/-- One host operation (R170, R171). -/
def perform (op : HostOp) (s : State) : HostAnswer :=
  match notPermitted op s with
  | some r => .refused r
  | none => transact op s

/-! ## Whole runs -/

/-- The cycles of a run (R172: "while ACTIVE: cycle()") under fuel: the state in which the run has ended, or none when the
fuel does not suffice (R190: a run need not end). -/
def runCycles : Nat → State → Option State
  | 0, s => if s.active then none else some s
  | n + 1, s =>
    if s.active then
      match step s with
      | .next t => runCycles n t
      | .fault _ => none
      | .refused _ => none
    else some s

/-- A whole `run` transaction (R172, R173) under fuel: the state at the end of the run and its result. -/
def runTransaction (fuel : Nat) (maxOutputs maxInputs : Option Int) (s : State) : Option (State × RunResult) :=
  match perform (.run maxOutputs maxInputs) s with
  | .next (t, _) =>
    match runCycles fuel t with
    | some u => (runResult u).map fun r => (u, r)
    | none => none
  | .fault _ => none
  | .refused _ => none

/-! ## Two agents -/

/-- A move of one of the two agents of R5: the engine's step, or a host operation. Which comes next is the host's free choice
(R217), so claims quantify over lists of events. -/
inductive Event where
  | engine
  | host (op : HostOp)
  deriving DecidableEq, Repr

/-- The state after a move. -/
def Event.act : Event → State → Answer
  | .engine, s => step s
  | .host op, s =>
    match perform op s with
    | .next (t, _) => .next t
    | .fault r => .fault r
    | .refused r => .refused r

/-- The state after a list of moves, the first in the list first. -/
def session : List Event → State → Answer
  | [], s => .next s
  | e :: es, s =>
    match e.act s with
    | .next t => session es t
    | .fault r => .fault r
    | .refused r => .refused r

end Sys2Proof.Machine
end

