-- ==== Sys2Proof/Machine/Instances.lean ====
section
/-! DEFINITION. Several instances side by side (R35, R66, R217): each is a whole machine known to the host by its place in a
list, the host runs one at a time, and a system's behaviour is a list of moves that the host chooses. -/

namespace Sys2Proof.Machine

/-- The moves that start or advance a run: `run` and the engine's step. These the host gives to one instance at a time
(R217); every other operation is permitted by its own instance alone (R171; log entry 14). -/
def Event.advances : Event → Bool
  | .engine => true
  | .host (.run _ _) => true
  | .host _ => false

/-- Some instance other than number `k` is inside a run. -/
def anotherRuns (k : Nat) (xs : List State) : Bool := (xs.eraseIdx k).any State.active

/-- What a move of a system answers. -/
abbrev SystemAnswer := Host.Outcome (List State) Fault Refusal

/-- A move of instance number `k` among several; the others are not touched (R35). While another is inside a run, `k` neither
starts nor advances one: "the host runs one instance at a time" (R217). -/
def actOn (k : Nat) (e : Event) (xs : List State) : SystemAnswer :=
  match xs[k]? with
  | none => .refused .noSuchInstance
  | some s =>
    if e.advances && anotherRuns k xs then .refused .anotherInstanceRuns
    else
      match e.act s with
      | .next t => .next (xs.set k t)
      | .fault r => .fault r
      | .refused r => .refused r

/-- A move of a system of instances: one more is constructed by its own `new` (R217, R231), or one of them moves. -/
inductive SystemEvent where
  | create (program initialInputs : List Int) (defaultInput : Option Int) (interactive : Bool)
  | move (k : Nat) (e : Event)
  deriving DecidableEq, Repr

/-- The instances after a move of the system. -/
def SystemEvent.act : SystemEvent → List State → SystemAnswer
  | .create program initialInputs defaultInput interactive, xs =>
    match variantOf defaultInput interactive with
    | some mode => .next (xs ++ [construct program initialInputs mode])
    | none => .refused .bothInputVariants
  | .move k e, xs => actOn k e xs

/-- The instances after a list of moves of the system, the first in the list first: a sequential interleaving of runs chosen
by the host (R217). Claims quantify over the list. -/
def systemSession : List SystemEvent → List State → SystemAnswer
  | [], xs => .next xs
  | m :: ms, xs =>
    match m.act xs with
    | .next ys => systemSession ms ys
    | .fault r => .fault r
    | .refused r => .refused r

/-- The moves of instance number `k` in a list of moves of the system. -/
def movesOf (k : Nat) : List SystemEvent → List Event
  | [] => []
  | .create _ _ _ _ :: ms => movesOf k ms
  | .move j e :: ms => if j = k then e :: movesOf k ms else movesOf k ms

end Sys2Proof.Machine
end

