-- ==== Sys2Proof/Safety.lean ====
section
/-! DEFINITION. What claims are stated in terms of: the invariant of R36 and its companions, the reachable states, and when two
states differ only in a run's bookkeeping. -/

namespace Sys2Proof.Machine

/-- A count is within an optional limit. -/
def withinLimit (limit : Option Nat) (count : Nat) : Bool :=
  match limit with
  | none => true
  | some n => decide (count ≤ n)

/-- What a latched record says fits its cause (R200): the recorded word is one the decoder refuses with that cause, the
recorded address is negative, or the value is 0; `badDiagnostic` is never latched. -/
def FaultRecord.fits (f : FaultRecord) : Bool :=
  match f.cause with
  | .invalidOpcode => decide (decodeHeader f.info = .error (.invalidOpcode f.info))
  | .invalidMode => decide (decodeHeader f.info = .error (.invalidMode f.info))
  | .negativeAddress => decide (f.info < 0)
  | .inputExhausted => decide (f.info = 0)
  | .badDiagnostic => false

/-- The latched record, if any, fits its cause, names the IP that the fault left in place (R209), and an input exhaustion is
one of the queued variant with an empty queue (R204). -/
def State.faultFits (s : State) : Bool :=
  match s.fault with
  | none => true
  | some f =>
    f.fits && decide (f.ip = s.ip) &&
      (decide (f.cause ≠ .inputExhausted) || (decide (s.inputMode = .queued) && s.inq.isEmpty))

/-- Whether an instance is of the defaulted variant. -/
def InputMode.isDefaulted : InputMode → Bool
  | .queued => false
  | .defaulted _ => true
  | .interactive => false

/-- The invariant of every reachable state: memory in canonical form; Faulted exactly when a record is latched (R36 (e)), and
the record fits; inside a run the status is Running (R27, R28); the counts are within the limits (R36 (d)); a pause stands
at its limit (R175, R176); the outputs of the run are in the log (R145); IDLE only in the defaulted variant (R143, R144). -/
abbrev State.Inv (s : State) : Prop :=
  s.mem.wf = true ∧
  (s.status = .faulted ↔ s.fault.isSome = true) ∧
  s.faultFits = true ∧
  (s.active = true → s.status = .running) ∧
  withinLimit s.maxOut s.outCount = true ∧
  withinLimit s.maxIn s.inCount = true ∧
  (s.status = .pausedOnOutputCount → s.maxOut = some s.outCount) ∧
  (s.status = .pausedOnInputCount → s.maxIn = some s.inCount) ∧
  s.outCount ≤ s.out.length ∧
  (s.idle = true → s.inputMode.isDefaulted = true)

/-- The states the two agents can bring an instance to from any construction (R230, R231) by engine steps and host
operations in any order. -/
inductive Reachable : State → Prop where
  | constructed (program initialInputs : List Int) (mode : InputMode) : Reachable (construct program initialInputs mode)
  | moved (s t : State) (e : Event) : Reachable s → e.act s = .next t → Reachable t

/-- Whether a move is the host's `new`, which replaces the instance (R171, R230). -/
def Event.isNew : Event → Bool
  | .host (.new _ _ _ _) => true
  | .host _ => false
  | .engine => false

/-- At most one of several instances is inside a run (R217). -/
abbrev OneRunAtATime (xs : List State) : Prop :=
  ∀ (j k : Nat) (s t : State), xs[j]? = some s → xs[k]? = some t → s.active = true → t.active = true → j = k

/-- Two states agree on everything a program can read or write: memory, IP, RB, queue, log, IDLE and the input variant. They
may differ in STATUS, ACTIVE, FAULT and a run's counts and limits. -/
abbrev SameProgramState (s t : State) : Prop :=
  s.mem = t.mem ∧ s.ip = t.ip ∧ s.rb = t.rb ∧ s.inq = t.inq ∧ s.out = t.out ∧ s.idle = t.idle ∧ s.inputMode = t.inputMode

/-- STATUS, ACTIVE and FAULT are the same in two states. -/
abbrev SameControl (s t : State) : Prop := t.status = s.status ∧ t.active = s.active ∧ t.fault = s.fault

/-- A step has raised a fault: nothing but STATUS, ACTIVE and FAULT has changed, as fault entry changes them (R208, R209). -/
abbrev RaisedFault (s t : State) : Prop :=
  ∃ (c : Cause) (x : Int), t = { s with fault := some ⟨c, s.ip, x⟩, status := .faulted, active := false }

/-- The cells from `base` on hold a sequence of integers. -/
def holdsFrom (m : Memory) : Nat → List Int → Prop
  | _, [] => True
  | base, w :: ws => m.read base = w ∧ holdsFrom m (base + 1) ws

end Sys2Proof.Machine
end

