-- ==== Sys2Proof/Certificates/Slice0/Obligations.lean ====
section
/-! DEFINITION. The statements for the provers. Helpers first, then the statements in the order of OBLIGATIONS.json. -/

open Sys2Proof Sys2Proof.Machine

/-- The number with mode digits `m1`, `m2`, `m3` and low two digits `op` (R71, R87). -/
def Sys2Proof.wordOfDigits (m1 m2 m3 op : Nat) : Int := Int.ofNat (10000 * m3 + 1000 * m2 + 100 * m1 + op)

/-- What R130 to R133 say of one of the four instructions of format F3, for its constructor, its opcode and the function of
the two resolved values that it stores: its cells, which decode to it; its effect, with everything else unchanged; InvalidMode
for an immediate destination or a digit above 2 (decisions D7 and D8); NegativeAddress from parameter 1, 2, 3 in that order. -/
def Sys2Proof.ThreeParameterRule (mk : Param → Param → Param → Instr) (op : Nat) (f : Int → Int → Int) : Prop :=
  (∀ a b dst : Param,
    encode (mk a b dst) = [wordOfDigits a.mode.digit b.mode.digit dst.mode.digit op, a.word, b.word, dst.word]) ∧
  (∀ a b dst : Param, dst.mode ≠ .immediate → decode (encode (mk a b dst)) = .ok (mk a b dst, [])) ∧
  (∀ (a b dst : Param) (s : State) (x y : Int) (d : Nat), dst.mode ≠ .immediate → resolveRead s a = .ok x →
    resolveRead s b = .ok y → resolveWrite s dst = .ok d →
    exec (mk a b dst) s = .next { s with mem := s.mem.write d (f x y), ip := s.ip + 4 }) ∧
  (∀ m1 m2 m3 : Nat, m1 ≤ 9 → m2 ≤ 9 → m3 ≤ 9 → (m3 = 1 ∨ 2 < m1 ∨ 2 < m2 ∨ 2 < m3) →
    decodeHeader (wordOfDigits m1 m2 m3 op) = .error (.invalidMode (wordOfDigits m1 m2 m3 op))) ∧
  (∀ (a b dst : Param) (s : State), dst.mode = .immediate →
    exec (mk a b dst) s = .next (s.raiseFault .invalidMode (mk a b dst).headWord)) ∧
  (∀ (a b dst : Param) (s : State) (e : Int), dst.mode ≠ .immediate → resolveRead s a = .error e →
    exec (mk a b dst) s = .next (s.raiseFault .negativeAddress e)) ∧
  (∀ (a b dst : Param) (s : State) (x e : Int), dst.mode ≠ .immediate → resolveRead s a = .ok x →
    resolveRead s b = .error e → exec (mk a b dst) s = .next (s.raiseFault .negativeAddress e)) ∧
  (∀ (a b dst : Param) (s : State) (x y e : Int), dst.mode ≠ .immediate → resolveRead s a = .ok x →
    resolveRead s b = .ok y → resolveWrite s dst = .error e →
    exec (mk a b dst) s = .next (s.raiseFault .negativeAddress e))

/-- What R141 and R160 say of an instruction of format F1R, for its effect on the state: its cells, which decode to it; its
effect; InvalidMode for a digit above 2 or an unused digit that is not 0 (decisions D7 and D9); NegativeAddress from its
parameter. -/
def Sys2Proof.OneReadParameterRule (mk : Param → Instr) (op : Nat) (effect : Int → State → State) : Prop :=
  (∀ a : Param, encode (mk a) = [wordOfDigits a.mode.digit 0 0 op, a.word] ∧
    decode (encode (mk a)) = .ok (mk a, [])) ∧
  (∀ (a : Param) (s : State) (v : Int), resolveRead s a = .ok v → exec (mk a) s = .next (effect v s)) ∧
  (∀ m1 m2 m3 : Nat, m1 ≤ 9 → m2 ≤ 9 → m3 ≤ 9 → (2 < m1 ∨ m2 ≠ 0 ∨ m3 ≠ 0) →
    decodeHeader (wordOfDigits m1 m2 m3 op) = .error (.invalidMode (wordOfDigits m1 m2 m3 op))) ∧
  (∀ (a : Param) (s : State) (e : Int), resolveRead s a = .error e →
    exec (mk a) s = .next (s.raiseFault .negativeAddress e))

/-- What R150 and R151 say of one of the two jumps, for its test of the condition: its cells, which decode to it; taken, IP is
the target as it stands; not taken, IP advances by 3; nothing else changes; a negative target is stored and the next step faults (decision
D14); InvalidMode for a digit above 2 or an unused digit that is not 0 (decisions D7 and D9); NegativeAddress from parameter 1
or 2, also when the jump is not taken (decision D13). -/
def Sys2Proof.JumpRule (mk : Param → Param → Instr) (op : Nat) (taken : Int → Prop) : Prop :=
  (∀ c g : Param, encode (mk c g) = [wordOfDigits c.mode.digit g.mode.digit 0 op, c.word, g.word] ∧
    decode (encode (mk c g)) = .ok (mk c g, [])) ∧
  (∀ (c g : Param) (s : State) (x y : Int), resolveRead s c = .ok x → resolveRead s g = .ok y → taken x →
    exec (mk c g) s = .next { s with ip := y }) ∧
  (∀ (c g : Param) (s : State) (x y : Int), resolveRead s c = .ok x → resolveRead s g = .ok y → ¬ taken x →
    exec (mk c g) s = .next { s with ip := s.ip + 3 }) ∧
  (∀ (c g : Param) (s : State) (x y : Int), resolveRead s c = .ok x → resolveRead s g = .ok y → taken x → y < 0 →
    s.active = true → s.maxOut ≠ some s.outCount →
    ∃ t, exec (mk c g) s = .next t ∧ step t = .next (t.raiseFault .negativeAddress y)) ∧
  (∀ m1 m2 m3 : Nat, m1 ≤ 9 → m2 ≤ 9 → m3 ≤ 9 → (2 < m1 ∨ 2 < m2 ∨ m3 ≠ 0) →
    decodeHeader (wordOfDigits m1 m2 m3 op) = .error (.invalidMode (wordOfDigits m1 m2 m3 op))) ∧
  (∀ (c g : Param) (s : State) (e : Int), resolveRead s c = .error e →
    exec (mk c g) s = .next (s.raiseFault .negativeAddress e)) ∧
  (∀ (c g : Param) (s : State) (x e : Int), resolveRead s c = .ok x → resolveRead s g = .error e →
    exec (mk c g) s = .next (s.raiseFault .negativeAddress e))

/-! ## The step and the decoder -/

/-- When the cells at IP begin with a list that decodes to `i`, a step inside a run that has not reached its output limit is
`exec i`: the step adds nothing around it, the advance of IP being part of each meaning (R100, R110, R111). The check of the
limit before the fetch is decision D15. -/
def Obligations.StepRunsTheDecodedInstruction : Prop :=
  ∀ (s : State) (ws rest : List Int) (i : Instr), s.active = true → s.maxOut ≠ some s.outCount → 0 ≤ s.ip →
    holdsFrom s.mem s.ip.toNat ws → decode ws = .ok (i, rest) → step s = exec i s

/-- The same from the encoder's side, ill-formed instructions included: when the cells at IP are the cells of `i`, the step is
`exec i`, so `exec` on an ill-formed instruction does what the machine does with its cells (log entry 9). -/
def Obligations.StepRunsTheEncodedInstruction : Prop :=
  ∀ (s : State) (i : Instr), s.active = true → s.maxOut ≠ some s.outCount → 0 ≤ s.ip →
    holdsFrom s.mem s.ip.toNat (encode i) → step s = exec i s

/-- The checks a step makes before any instruction, in the order of R207 (decisions D12, D14, D15): the output-count pause,
then a negative IP, then the instruction word; and an instance at rest takes no cycle (log entries 3 and 5). -/
def Obligations.StepChecksInTheOrderOfTheCycle : Prop :=
  ∀ s : State,
    (s.active = true → s.maxOut = some s.outCount →
      step s = .next { s with status := .pausedOnOutputCount, active := false }) ∧
    (s.active = true → s.maxOut ≠ some s.outCount → s.ip < 0 →
      step s = .next (s.raiseFault .negativeAddress s.ip)) ∧
    (∀ w, s.active = true → s.maxOut ≠ some s.outCount → 0 ≤ s.ip →
      decodeHeader (s.mem.read s.ip.toNat) = .error (.invalidOpcode w) →
      w = s.mem.read s.ip.toNat ∧ step s = .next (s.raiseFault .invalidOpcode w)) ∧
    (∀ w, s.active = true → s.maxOut ≠ some s.outCount → 0 ≤ s.ip →
      decodeHeader (s.mem.read s.ip.toNat) = .error (.invalidMode w) →
      w = s.mem.read s.ip.toNat ∧ step s = .next (s.raiseFault .invalidMode w)) ∧
    (s.active = false → s.fault = none → step s = .next s) ∧
    (∀ f, s.active = false → s.fault = some f → step s = .fault (.latched f.cause))

/-- Words written out from the spec's encodings (R71, R85, R114) decode to the instructions they stand for. -/
def Obligations.WordsOfTheSpecDecode : Prop :=
  decode [1002, 4, 3, 4, 33] = .ok (.mul ⟨.position, 4⟩ ⟨.immediate, 3⟩ ⟨.position, 4⟩, [33]) ∧
  decode [21101, 7, -8, 9] = .ok (.add ⟨.immediate, 7⟩ ⟨.immediate, -8⟩ ⟨.relative, 9⟩, []) ∧
  decode [203, 4, 99] = .ok (.inp ⟨.relative, 4⟩, [99]) ∧
  decode [2105, 1, -1] = .ok (.jt ⟨.immediate, 1⟩ ⟨.relative, -1⟩, []) ∧
  decode [209, 1] = .ok (.arb ⟨.relative, 1⟩, []) ∧
  decode [398] = .error (.word (.invalidOpcode 398)) ∧
  decode [10001, 0, 0, 0] = .error (.word (.invalidMode 10001))

/-- Decoding the cells of a well-formed instruction gives it back with the cells after it, whatever its modes and parameter
words (R70, R71, R74, R103). -/
def Obligations.DecodeAfterEncodeIsTheInstruction : Prop :=
  ∀ (i : Instr) (rest : List Int), i.wellFormed = true → decode (encode i ++ rest) = .ok (i, rest)

/-- Each list of cells has one meaning: what decodes to `i` is the encoding of `i`, and `i` is well formed. It rests on the
reserved words being refused (decisions D5 to D9). -/
def Obligations.EncodeAfterDecodeIsTheCells : Prop :=
  ∀ (ws rest : List Int) (i : Instr), decode ws = .ok (i, rest) → i.wellFormed = true ∧ ws = encode i ++ rest

/-- The legal instruction words are exactly the 99 that R85 lists (R85 is the spec's derivation from R71 to R82). -/
def Obligations.LegalWordsAreThoseListed : Prop :=
  ∀ w : Int, (∃ h, decodeHeader w = .ok h) ↔
    w ∈ ([1, 101, 201, 1001, 1101, 1201, 2001, 2101, 2201, 20001, 20101, 20201, 21001, 21101, 21201, 22001, 22101, 22201] ++
         [2, 102, 202, 1002, 1102, 1202, 2002, 2102, 2202, 20002, 20102, 20202, 21002, 21102, 21202, 22002, 22102, 22202] ++
         [3, 203] ++ [4, 104, 204] ++
         [5, 105, 205, 1005, 1105, 1205, 2005, 2105, 2205] ++ [6, 106, 206, 1006, 1106, 1206, 2006, 2106, 2206] ++
         [7, 107, 207, 1007, 1107, 1207, 2007, 2107, 2207, 20007, 20107, 20207, 21007, 21107, 21207, 22007, 22107, 22207] ++
         [8, 108, 208, 1008, 1108, 1208, 2008, 2108, 2208, 20008, 20108, 20208, 21008, 21108, 21208, 22008, 22108, 22208] ++
         [9, 109, 209] ++ [99] : List Int)

/-- InvalidOpcode is the answer exactly to a negative word, a word of six or more digits, and an opcode outside the table
(R201); a word with a legal opcode that is no legal word is InvalidMode (R202). The recorded word is the word. The first two
cases are decisions D5 and D6, InvalidMode is decisions D7 to D9. -/
def Obligations.RefusedWordsNameTheirCause : Prop :=
  ∀ w : Int,
    (decodeHeader w = .error (.invalidOpcode w) ↔
      w < 0 ∨ 100000 ≤ w ∨ w % 100 ∉ ([1, 2, 3, 4, 5, 6, 7, 8, 9, 99] : List Int)) ∧
    (∀ e, decodeHeader w = .error e → e = .invalidOpcode w ∨ e = .invalidMode w)

/-- Under `UNUSED_MODE_POLICY = ignore` a word executes as if its unused mode digits were 0, and under both policies the legal
words decode alike (R80; decision D9, log entry 6). -/
def Obligations.IgnorePolicyReadsUnusedDigitsAsZero : Prop :=
  (∀ (op : Opcode) (m1 m2 m3 : Nat), m1 ≤ 9 → m2 ≤ 9 → m3 ≤ 9 →
    (match decodeHeaderWith .ignore (wordOfDigits m1 m2 m3 op.code),
        decodeHeaderWith .ignore (wordOfDigits (if op.nparams < 1 then 0 else m1) (if op.nparams < 2 then 0 else m2)
          (if op.nparams < 3 then 0 else m3) op.code) with
      | .ok h, .ok h' => h = h'
      | .error _, .error _ => True
      | _, _ => False)) ∧
  (∀ (w : Int) (h : Header), decodeHeader w = .ok h → decodeHeaderWith .ignore w = .ok h)

/-! ## Memory -/

/-- A write makes its cell hold the value, whatever the value, and changes no other cell (R52). Memory in canonical form is the
invariant `State.Inv`'s first part. -/
def Obligations.WriteChangesItsCellAlone : Prop :=
  ∀ (m : Memory) (a : Nat) (v : Int), m.wf = true →
    (m.write a v).read a = v ∧ ∀ b, b ≠ a → (m.write a v).read b = m.read b

/-- After construction cell `i` below the program's length holds its `i`-th word and every other cell reads 0 (R37, R59). -/
def Obligations.ConstructedMemoryIsTheProgram : Prop :=
  ∀ (program inputs : List Int) (mode : InputMode) (a : Nat),
    (construct program inputs mode).mem.read a = (program[a]?).getD 0

/-- Two memories in canonical form that read alike at every address are the same memory, so nothing tells an unset cell from a
cell set to 0 (R33, marked there as the spec's derivation; the canonical form is log entry 1). -/
def Obligations.MemoriesThatReadAlikeAreEqual : Prop :=
  ∀ m m' : Memory, m.wf = true → m'.wf = true → (∀ a, m.read a = m'.read a) → m = m'

/-! ## The parameter resolver -/

/-- `resolve_read` (R106) in its three modes: position and relative read the cell at the effective address, or name it when it
is negative; immediate is the parameter word, never checked. -/
def Obligations.ReadParametersResolveByMode : Prop :=
  ∀ (s : State) (p : Int),
    (p < 0 → resolveRead s ⟨.position, p⟩ = .error p) ∧
    (0 ≤ p → resolveRead s ⟨.position, p⟩ = .ok (s.mem.read p.toNat)) ∧
    resolveRead s ⟨.immediate, p⟩ = .ok p ∧
    (s.rb + p < 0 → resolveRead s ⟨.relative, p⟩ = .error (s.rb + p)) ∧
    (0 ≤ s.rb + p → resolveRead s ⟨.relative, p⟩ = .ok (s.mem.read (s.rb + p).toNat))

/-- `resolve_write_address` (R107) in its two modes, and the third mode never reaches it: an instruction with an immediate
destination raises InvalidMode with its instruction word (decision D8). -/
def Obligations.WriteParametersResolveByMode : Prop :=
  (∀ (s : State) (p : Int),
    (p < 0 → resolveWrite s ⟨.position, p⟩ = .error p) ∧
    (0 ≤ p → resolveWrite s ⟨.position, p⟩ = .ok p.toNat) ∧
    (s.rb + p < 0 → resolveWrite s ⟨.relative, p⟩ = .error (s.rb + p)) ∧
    (0 ≤ s.rb + p → resolveWrite s ⟨.relative, p⟩ = .ok (s.rb + p).toNat)) ∧
  (∀ (i : Instr) (s : State), i.wellFormed = false → exec i s = .next (s.raiseFault .invalidMode i.headWord))

/-! ## The instructions -/

/-- ADD (R130): the cell at the destination receives the exact sum. -/
def Obligations.AddStoresTheExactSum : Prop := ThreeParameterRule .add 1 fun x y => x + y

/-- MUL (R131): the cell at the destination receives the exact product. -/
def Obligations.MulStoresTheExactProduct : Prop := ThreeParameterRule .mul 2 fun x y => x * y

/-- LT (R132): the cell at the destination receives 1 if the first value is less than the second in the order of the integers,
else 0. -/
def Obligations.LtStoresOneOrZero : Prop := ThreeParameterRule .lt 7 fun x y => if x < y then 1 else 0

/-- EQ (R133): the cell at the destination receives 1 if the two values are the same integer, else 0. -/
def Obligations.EqStoresOneOrZero : Prop := ThreeParameterRule .eq 8 fun x y => if x = y then 1 else 0

/-- OUT (R141): the value is appended to the log and counted, IP advances by 2, nothing else changes; and if this output brings
OUT_COUNT to MAX_OUT the next step pauses the run with the value in the log and IP past the OUT (decision D15). -/
def Obligations.OutAppendsItsValue : Prop :=
  OneReadParameterRule .out 4 (fun v s => { s with out := s.out ++ [v], outCount := s.outCount + 1, ip := s.ip + 2 }) ∧
  (∀ (a : Param) (s : State) (v : Int), resolveRead s a = .ok v → s.active = true → s.maxOut = some (s.outCount + 1) →
    ∃ t, exec (.out a) s = .next t ∧ t.out = s.out ++ [v] ∧ t.ip = s.ip + 2 ∧
      step t = .next { t with status := .pausedOnOutputCount, active := false })

/-- ARB (R160): the value is added to RB, IP advances by 2, nothing else changes; and ARB is the only instruction that writes
RB. -/
def Obligations.ArbAddsToTheRelativeBase : Prop :=
  OneReadParameterRule .arb 9 (fun v s => { s with rb := s.rb + v, ip := s.ip + 2 }) ∧
  (∀ (i : Instr) (s t : State), exec i s = .next t → t.rb ≠ s.rb → ∃ a, i = .arb a)

/-- JT (R150): taken on any condition but 0. -/
def Obligations.JtJumpsUnlessZero : Prop := JumpRule .jt 5 fun x => x ≠ 0

/-- JF (R151): taken on the condition 0 alone. -/
def Obligations.JfJumpsOnZero : Prop := JumpRule .jf 6 fun x => x = 0

/-- HLT (R161): the status is Halted, the run ends, IP advances by 1 (decision D19), nothing else changes; its only legal word
is 99 (decision D9). -/
def Obligations.HltHaltsTheMachine : Prop :=
  encode .hlt = [99] ∧
  (∀ s : State, exec .hlt s = .next { s with status := .halted, active := false, ip := s.ip + 1 }) ∧
  (∀ m1 m2 m3 : Nat, m1 ≤ 9 → m2 ≤ 9 → m3 ≤ 9 → (m1 ≠ 0 ∨ m2 ≠ 0 ∨ m3 ≠ 0) →
    decodeHeader (wordOfDigits m1 m2 m3 99) = .error (.invalidMode (wordOfDigits m1 m2 m3 99)))

/-- IN with a value in the queue (R140, R142): in every variant it takes the oldest value, stores it, clears IDLE and counts
the input; IP advances by 2 and nothing else changes. Below the limit only (decisions D16, D20, D29). -/
def Obligations.InTakesTheOldestQueuedValue : Prop :=
  (∀ dst : Param, encode (.inp dst) = [wordOfDigits dst.mode.digit 0 0 3, dst.word]) ∧
  (∀ (dst : Param) (s : State) (d : Nat) (v : Int) (rest : List Int), dst.mode ≠ .immediate →
    resolveWrite s dst = .ok d → s.maxIn ≠ some s.inCount → s.inq = v :: rest →
    exec (.inp dst) s = .next { s with
      mem := s.mem.write d v, inq := rest, idle := false, inCount := s.inCount + 1, ip := s.ip + 2 })

/-- IN in the defaulted variant with an empty queue (R143): it stores the default, sets IDLE and counts the input; the queue
stays empty (decisions D20, D29). -/
def Obligations.InTakesTheDefaultAndIsIdle : Prop :=
  ∀ (dst : Param) (s : State) (d : Nat) (v : Int), dst.mode ≠ .immediate → resolveWrite s dst = .ok d →
    s.maxIn ≠ some s.inCount → s.inq = [] → s.inputMode = .defaulted v →
    exec (.inp dst) s = .next { s with
      mem := s.mem.write d v, idle := true, inCount := s.inCount + 1, ip := s.ip + 2 }

/-- IN in the queued variant with an empty queue (R146) raises InputExhausted: nothing is written, IN_COUNT and IP are
unchanged; and the queued variant is the one of the state after reset. -/
def Obligations.InOnAnEmptyQueuedQueueIsFatal : Prop :=
  State.reset.inputMode = .queued ∧
  (∀ (dst : Param) (s : State) (d : Nat), dst.mode ≠ .immediate → resolveWrite s dst = .ok d →
    s.maxIn ≠ some s.inCount → s.inq = [] → s.inputMode = .queued →
    exec (.inp dst) s = .next { s with
      fault := some ⟨.inputExhausted, s.ip, 0⟩, status := .faulted, active := false })

/-- IN at its other stops: at the input limit it pauses and nothing else changes, whatever the queue holds (R176; decision
D16); a negative destination and an immediate one are faults that come first (R140, R207; decisions D8, D12). -/
def Obligations.InPausesAtTheLimitBeforeTheQueue : Prop :=
  (∀ (dst : Param) (s : State) (d : Nat), dst.mode ≠ .immediate → resolveWrite s dst = .ok d →
    s.maxIn = some s.inCount →
    exec (.inp dst) s = .next { s with status := .pausedOnInputCount, active := false }) ∧
  (∀ (dst : Param) (s : State) (e : Int), dst.mode ≠ .immediate → resolveWrite s dst = .error e →
    exec (.inp dst) s = .next (s.raiseFault .negativeAddress e)) ∧
  (∀ (dst : Param) (s : State), dst.mode = .immediate →
    exec (.inp dst) s = .next (s.raiseFault .invalidMode (wordOfDigits 1 0 0 3)))

/-- The interactive hold (R144; decision D22, log entry 4): while it lasts a step changes nothing; the host's value lifts it,
and the next step stores that value, clears IDLE and leaves the queue empty. -/
def Obligations.HoldLastsUntilTheHostSuppliesAValue : Prop :=
  ∀ (s : State) (x : Int), holding s = true → s.mem.wf = true →
    step s = .next s ∧ s.inq = [] ∧
    ∃ (u t : State) (dst : Param) (d : Nat), perform (.addInput x) s = .next (u, .nothing) ∧
      fetch s = .ok (.inp dst) ∧ resolveWrite s dst = .ok d ∧ step u = .next t ∧
      t.mem.read d = x ∧ (∀ a, a ≠ d → t.mem.read a = s.mem.read a) ∧ t.inq = [] ∧ t.idle = false ∧ t.ip = s.ip + 2 ∧
      t.inCount = s.inCount + 1 ∧ t.status = s.status ∧ t.active = true

/-- No instruction ever stops the model: `exec` answers a next state for every instruction and state, faults and pauses being
next states (R208, R174). -/
def Obligations.EveryInstructionAnswersANextState : Prop := ∀ (i : Instr) (s : State), ∃ t, exec i s = .next t

/-! ## Frames -/

/-- ADD, MUL, LT and EQ change nothing but the cell at the destination that `resolveWrite` computes, IP, and, when they raise a
fault, STATUS, ACTIVE and FAULT (R130 to R133, R57, R209). -/
def Obligations.FrameOfTheStoringInstructions : Prop :=
  ∀ (a b dst : Param) (s t : State) (i : Instr), s.mem.wf = true →
    (i = .add a b dst ∨ i = .mul a b dst ∨ i = .lt a b dst ∨ i = .eq a b dst) → exec i s = .next t →
    t.rb = s.rb ∧ t.inq = s.inq ∧ t.out = s.out ∧ t.outCount = s.outCount ∧ t.inCount = s.inCount ∧
    t.maxOut = s.maxOut ∧ t.maxIn = s.maxIn ∧ t.idle = s.idle ∧ t.inputMode = s.inputMode ∧
    (SameControl s t ∨ RaisedFault s t) ∧
    ∀ n, (∀ d, resolveWrite s dst = .ok d → n ≠ d) → t.mem.read n = s.mem.read n

/-- IN changes nothing but the cell at its destination, IP, the head of the queue, IDLE and IN_COUNT; when it does not
complete (a pause, a hold, a fault) it changes none of these, and STATUS, ACTIVE, FAULT only as a pause or fault entry does
(R140, R209). -/
def Obligations.FrameOfTheInputInstruction : Prop :=
  ∀ (dst : Param) (s t : State), s.mem.wf = true → exec (.inp dst) s = .next t →
    t.rb = s.rb ∧ t.out = s.out ∧ t.outCount = s.outCount ∧ t.maxOut = s.maxOut ∧ t.maxIn = s.maxIn ∧
    t.inputMode = s.inputMode ∧
    (SameControl s t ∨ t = { s with status := .pausedOnInputCount, active := false } ∨ RaisedFault s t) ∧
    (t.inq = s.inq ∨ ∃ v, s.inq = v :: t.inq) ∧
    (t.inCount = s.inCount ∨ t.inCount = s.inCount + 1) ∧
    (t.inCount = s.inCount → t.mem = s.mem ∧ t.ip = s.ip ∧ t.inq = s.inq ∧ t.idle = s.idle) ∧
    ∀ n, (∀ d, resolveWrite s dst = .ok d → n ≠ d) → t.mem.read n = s.mem.read n

/-- OUT, JT, JF, ARB and HLT store nothing and leave the queue, IN_COUNT, the limits, IDLE and the variant alone; only OUT
writes the log and OUT_COUNT, only ARB writes RB, and STATUS, ACTIVE, FAULT change only by a fault or by HLT (R57, R141, R150,
R151, R160, R161, R209). -/
def Obligations.FrameOfTheInstructionsThatStoreNothing : Prop :=
  ∀ (i : Instr) (s t : State), exec i s = .next t →
    ((∃ a, i = .out a) ∨ (∃ c g, i = .jt c g) ∨ (∃ c g, i = .jf c g) ∨ (∃ a, i = .arb a) ∨ i = .hlt) →
    t.mem = s.mem ∧ (∀ n, t.mem.read n = s.mem.read n) ∧ t.inq = s.inq ∧ t.inCount = s.inCount ∧
    t.maxOut = s.maxOut ∧ t.maxIn = s.maxIn ∧ t.idle = s.idle ∧ t.inputMode = s.inputMode ∧
    ((∃ a, i = .out a) ∨ (t.out = s.out ∧ t.outCount = s.outCount)) ∧
    ((∃ a, i = .arb a) ∨ t.rb = s.rb) ∧
    (SameControl s t ∨ RaisedFault s t ∨ (i = .hlt ∧ t.status = .halted ∧ t.active = false ∧ t.fault = s.fault))

/-! ## Faults -/

/-- Faults are precise: a step that leaves a machine Faulted changes nothing but FAULT, STATUS and ACTIVE, and records a
latched cause with the IP of the faulting instruction (R208, R209; decisions D10, D11). -/
def Obligations.FaultsArePrecise : Prop :=
  ∀ s t : State, step s = .next t → s.status ≠ .faulted → t.status = .faulted →
    ∃ (c : Cause) (x : Int), c.latches = true ∧
      t = { s with fault := some ⟨c, s.ip, x⟩, status := .faulted, active := false }

/-- InputExhausted (R204): IN raises it in the queued variant with an empty queue, after its destination has been resolved and
the limit has not paused the run; nothing else raises it; the recorded value is 0 (decision D10). -/
def Obligations.OnlyInRaisesInputExhausted : Prop :=
  (∀ (dst : Param) (s : State) (d : Nat), dst.mode ≠ .immediate → resolveWrite s dst = .ok d →
    s.maxIn ≠ some s.inCount → s.inputMode = .queued → s.inq = [] →
    exec (.inp dst) s = .next (s.raiseFault .inputExhausted 0)) ∧
  ∀ (i : Instr) (s t : State) (f : FaultRecord), exec i s = .next t → s.fault = none → t.fault = some f →
    f.cause = .inputExhausted →
    ∃ (dst : Param) (d : Nat), i = .inp dst ∧ resolveWrite s dst = .ok d ∧ s.maxIn ≠ some s.inCount ∧
      s.inputMode = .queued ∧ s.inq = [] ∧ f.info = 0

/-- A Faulted instance is stuck: a run answers the same fault and changes nothing (R180), every operation but `run`, `status`,
`fault` and `new` is refused (R171), and no engine step has a next state (R210). The status Faulted and these refusals are
decision D11; the last clause is log entry 5. -/
def Obligations.FaultedInstanceAnswersOnlyItsFault : Prop :=
  ∀ (s : State) (f : FaultRecord), s.active = false → s.status = .faulted → s.fault = some f →
    (∀ mo mi : Option Nat, perform (.run (mo.map Int.ofNat) (mi.map Int.ofNat)) s = .next (s, .result (.fault f.cause))) ∧
    (∀ (x a v : Int) (xs : List Int),
      ∀ op ∈ ([.addInput x, .addInputs xs, .outputLog, .memoryRead a, .memoryWrite a v, .diagnostic, .idle, .ip, .rb] :
        List HostOp), perform op s = .refused .hostAfterFault) ∧
    perform .status s = .next (s, .statusIs .faulted) ∧ perform .fault s = .next (s, .faultIs (some f)) ∧
    step s = .fault (.latched f.cause)

/-! ## The whole machine -/

/-- Every piece of state is written only by the writers R20 names: memory by ADD, MUL, IN, LT, EQ and `memory_write`; IP by an
instruction the engine executes; RB by ARB; the queue by IN (its head) and `add_input` (its tail); the log and OUT_COUNT by
OUT; STATUS and ACTIVE by the engine inside a run and by `run`; FAULT by fault entry; IDLE by IN; the limits and the counts
otherwise only by `run`; the input variant by nothing. -/
def Obligations.StateIsWrittenOnlyByItsWriters : Prop :=
  ∀ (e : Event) (s t : State), e.act s = .next t → e.isNew = false →
    (t.mem ≠ s.mem → (∃ a v, e = .host (.memoryWrite a v)) ∨
      (e = .engine ∧ ∃ i, fetch s = .ok i ∧ i.opcode ∈ ([.add, .mul, .inp, .lt, .eq] : List Opcode))) ∧
    (t.ip ≠ s.ip → e = .engine ∧ s.active = true ∧ ∃ i, fetch s = .ok i ∧ exec i s = .next t) ∧
    (t.rb ≠ s.rb → e = .engine ∧ ∃ a, fetch s = .ok (.arb a)) ∧
    (t.inq ≠ s.inq → (e = .engine ∧ (∃ d, fetch s = .ok (.inp d)) ∧ ∃ v, s.inq = v :: t.inq) ∨
      ∃ xs, (e = .host (.addInputs xs) ∨ ∃ x, xs = [x] ∧ e = .host (.addInput x)) ∧ t.inq = s.inq ++ xs) ∧
    (t.out ≠ s.out → e = .engine ∧ (∃ a, fetch s = .ok (.out a)) ∧ ∃ v, t.out = s.out ++ [v]) ∧
    (t.status ≠ s.status ∨ t.active ≠ s.active → (e = .engine ∧ s.active = true) ∨ ∃ a b, e = .host (.run a b)) ∧
    (t.fault ≠ s.fault → e = .engine ∧ s.active = true ∧ RaisedFault s t) ∧
    (t.idle ≠ s.idle → e = .engine ∧ ∃ d, fetch s = .ok (.inp d)) ∧
    (t.outCount ≠ s.outCount → (∃ a b, e = .host (.run a b)) ∨ (e = .engine ∧ ∃ a, fetch s = .ok (.out a))) ∧
    (t.inCount ≠ s.inCount → (∃ a b, e = .host (.run a b)) ∨ (e = .engine ∧ ∃ d, fetch s = .ok (.inp d))) ∧
    (t.maxOut ≠ s.maxOut ∨ t.maxIn ≠ s.maxIn → ∃ a b, e = .host (.run a b)) ∧
    t.inputMode = s.inputMode

/-- IDLE tells how the most recent completed IN got its value (R30; decision D20): an IN that completes leaves it true exactly
when the queue was empty; no other completed instruction changes it. -/
def Obligations.IdleTellsHowTheLastInputCame : Prop :=
  ∀ (i : Instr) (s t : State), exec i s = .next t →
    (t.inCount = s.inCount + 1 → ∃ dst, i = .inp dst ∧ (t.idle = true ↔ s.inq = []) ∧
      (s.inq = [] → ∃ d, s.inputMode = .defaulted d)) ∧
    (t.inCount ≠ s.inCount + 1 → t.idle = s.idle)

/-- The output log only grows: after any session of engine steps and host operations without `new`, the log before is the
beginning of the log after (R34, R36 (b), R145). -/
def Obligations.OutputLogOnlyGrows : Prop :=
  ∀ (es : List Event) (s t : State), (∀ e ∈ es, e.isNew = false) → session es s = .next t → s.out <+: t.out

/-- Halted and Faulted are terminal (R36 (f); Faulted is decision D11): after any session without `new` the status is the same
and no instruction has executed; a Faulted machine has not changed at all. -/
def Obligations.TerminalStatusesAreNeverLeft : Prop :=
  ∀ (es : List Event) (s t : State), (∀ e ∈ es, e.isNew = false) → session es s = .next t → s.active = false →
    (s.status = .halted → s.fault = none →
      t.status = .halted ∧ t.active = false ∧ t.ip = s.ip ∧ t.rb = s.rb ∧ t.out = s.out ∧ t.idle = s.idle ∧ t.fault = none ∧
        s.inq <+: t.inq) ∧
    (s.status = .faulted → t = s)

/-- Where control stands after a move of STATUS (R191): from inside a run, only the four endings of a run or staying inside it;
at rest, only the host's `run` (from Running or a pause) or `new` changes it. -/
def Obligations.StatusMovesAlongTheDiagram : Prop :=
  ∀ (e : Event) (s t : State), e.act s = .next t → s.Inv →
    (s.active = true → e = .engine →
      (t.status = .running ∧ t.active = true) ∨
      (t.active = false ∧ t.status = .pausedOnOutputCount ∧ s.maxOut = some s.outCount) ∨
      (t.active = false ∧ t.status = .pausedOnInputCount ∧ s.maxIn = some s.inCount ∧ ∃ d, fetch s = .ok (.inp d)) ∨
      (t.active = false ∧ t.status = .halted ∧ fetch s = .ok .hlt) ∨
      (t.active = false ∧ t.status = .faulted)) ∧
    (s.active = false → e = .engine → t = s) ∧
    (∀ op, e = .host op → t.status = s.status ∧ t.active = s.active ∨ e.isNew = true ∨
      ((∃ a b, op = .run a b) ∧ s.status ≠ .halted ∧ s.status ≠ .faulted ∧ t.status = .running ∧ t.active = true))

/-- The invariant holds after every construction, State.reset's among them (R36, R37). -/
def Obligations.ConstructionMeetsTheInvariant : Prop :=
  (∀ (program inputs : List Int) (mode : InputMode), (construct program inputs mode).Inv) ∧ State.reset.Inv

/-- Every engine step keeps the invariant (R36), from every state that meets it. -/
def Obligations.StepKeepsTheInvariant : Prop := ∀ s t : State, s.Inv → step s = .next t → t.Inv

/-- Every host operation keeps the invariant (R36). -/
def Obligations.HostOperationsKeepTheInvariant : Prop :=
  ∀ (op : HostOp) (s t : State) (r : Reply), s.Inv → perform op s = .next (t, r) → t.Inv

/-- Every state the two agents can reach from any construction meets the invariant (R36). -/
def Obligations.ReachableStatesMeetTheInvariant : Prop := ∀ s : State, Reachable s → s.Inv

/-- A run's counts and limits are invisible to the program (R29): two running states that agree on everything a program can
read or write still agree after a step of each, when neither step is a pause, and they end or go on alike. -/
def Obligations.RunBookkeepingIsInvisibleToTheProgram : Prop :=
  ∀ s t s' t' : State, SameProgramState s t → s.active = true → t.active = true → s.status = .running →
    t.status = .running → s.fault = t.fault → step s = .next s' → step t = .next t' →
    s'.status ≠ .pausedOnOutputCount → s'.status ≠ .pausedOnInputCount → t'.status ≠ .pausedOnOutputCount →
    t'.status ≠ .pausedOnInputCount →
    SameProgramState s' t' ∧ s'.status = t'.status ∧ s'.active = t'.active ∧ s'.fault = t'.fault

/-- "A pause is not an error and loses nothing; the next `run` continues as if there had been no pause" (R174): a run that
pauses and is resumed without limits to its end ends as one run without limits does. -/
def Obligations.PausedRunContinuesAsIfUninterrupted : Prop :=
  ∀ (s p u : State) (mo mi : Option Nat) (j k : Nat), s.Inv → s.active = false → s.status ≠ .halted → s.status ≠ .faulted →
    runCycles j (s.startRun mo mi) = some p → (p.status = .pausedOnOutputCount ∨ p.status = .pausedOnInputCount) →
    runCycles k (p.startRun none none) = some u →
    ∃ (n : Nat) (v : State), runCycles n (s.startRun none none) = some v ∧ SameProgramState u v ∧ u.status = v.status ∧
      u.fault = v.fault

/-- A run that pauses on the output count has appended exactly `max_outputs` outputs (R173 (b), R175; decision D15). -/
def Obligations.OutputPauseMeansExactlyTheLimit : Prop :=
  ∀ (fuel : Nat) (n : Int) (mi : Option Int) (s t : State),
    runTransaction fuel (some n) mi s = some (t, .pausedOnOutputCount) →
    0 ≤ n ∧ t.out.length = s.out.length + n.toNat

/-- A run that pauses on the input count has completed exactly `max_inputs` input instructions and stands at an IN that has not
executed (R173 (c), R176; decision D16). -/
def Obligations.InputPauseStandsAtTheNextInput : Prop :=
  ∀ (fuel : Nat) (n : Int) (mo : Option Int) (s t : State),
    runTransaction fuel mo (some n) s = some (t, .pausedOnInputCount) →
    0 ≤ n ∧ t.inCount = n.toNat ∧ 0 ≤ t.ip ∧ ∃ d, fetch t = .ok (.inp d)

/-- A run that ends has a result: the status is one of the four resting ones and the cause of a fault is there (R189); and a
run without limits ends only by HLT or by a fault (R177). -/
def Obligations.EndedRunHasAResult : Prop :=
  (∀ (fuel : Nat) (s t : State), s.Inv → s.active = true → runCycles fuel s = some t →
    t.active = false ∧ t.status ≠ .running ∧ ∃ r, runResult t = some r) ∧
  (∀ (fuel : Nat) (s t : State) (r : RunResult), runTransaction fuel none none s = some (t, r) →
    r = .halted ∨ ∃ c, r = .fault c)

/-! ## The host's operations -/

/-- `run` on an instance at rest that is Running or paused sets the counts to 0, latches the limits and makes the engine
active; nothing else is initialised again (R172, R181). -/
def Obligations.RunStartsTheEngine : Prop :=
  ∀ (s : State) (mo mi : Option Nat), s.active = false →
    (s.status = .running ∨ s.status = .pausedOnOutputCount ∨ s.status = .pausedOnInputCount) →
    perform (.run (mo.map Int.ofNat) (mi.map Int.ofNat)) s =
      .next ({ s with outCount := 0, inCount := 0, maxOut := mo, maxIn := mi, status := .running, active := true }, .started)

/-- `run` on a halted instance answers Halted and changes nothing (R179; decision D18); `run` with a negative limit is refused
at rest in every status (R178; decision D17; for a Halted or Faulted instance log entry 11). -/
def Obligations.RunOnAHaltedInstanceOrWithANegativeLimit : Prop :=
  (∀ (s : State) (mo mi : Option Nat), s.active = false → s.status = .halted →
    perform (.run (mo.map Int.ofNat) (mi.map Int.ofNat)) s = .next (s, .result .halted)) ∧
  (∀ (s : State) (n : Int) (m : Option Int), s.active = false → n < 0 →
    perform (.run (some n) m) s = .refused .negativeLimit ∧ perform (.run m (some n)) s = .refused .negativeLimit)

/-- `output_log` returns the whole of OUT, oldest first, and changes nothing (R183), at rest on an instance that is not
Faulted (R171); and after a run that started the last OUT_COUNT entries are the run's, the others those of before. -/
def Obligations.OutputLogReturnsTheWholeHistory : Prop :=
  (∀ s : State, s.active = false → s.status ≠ .faulted → perform .outputLog s = .next (s, .log s.out)) ∧
  (∀ (fuel : Nat) (mo mi : Option Int) (s t : State) (r : RunResult), s.status ≠ .halted → s.status ≠ .faulted →
    runTransaction fuel mo mi s = some (t, r) → ∃ new : List Int, t.out = s.out ++ new ∧ new.length = t.outCount)

/-- `add_input` appends its values at the tail of the queue in their order and writes nothing else (R182; decision D30). -/
def Obligations.AddInputAppendsAtTheTail : Prop :=
  ∀ (s : State) (x : Int) (xs : List Int), s.active = false → s.status ≠ .faulted →
    perform (.addInput x) s = .next ({ s with inq := s.inq ++ [x] }, .nothing) ∧
    perform (.addInputs xs) s = .next ({ s with inq := s.inq ++ xs }, .nothing)

/-- `memory_read` returns the cell and changes nothing, `memory_write` sets it and changes nothing else (R184, R185); both are
refused at a negative address (decision D24). -/
def Obligations.HostReadsAndWritesOneCell : Prop :=
  ∀ (s : State) (a v : Int), s.active = false → s.status ≠ .faulted →
    (0 ≤ a → perform (.memoryRead a) s = .next (s, .value (s.mem.read a.toNat)) ∧
      perform (.memoryWrite a v) s = .next ({ s with mem := s.mem.write a.toNat v }, .nothing)) ∧
    (a < 0 → perform (.memoryRead a) s = .refused .negativeHostAddress ∧
      perform (.memoryWrite a v) s = .refused .negativeHostAddress)

/-- `diagnostic` returns the last output when all before it are 0, otherwise it reports BadDiagnostic, on an empty log too; it
changes nothing (R186, R205; decision D25). -/
def Obligations.DiagnosticChecksAllButTheLastOutput : Prop :=
  ∀ s : State, s.active = false → s.status ≠ .faulted →
    (∀ (zeros : List Int) (v : Int), s.out = zeros ++ [v] → (∀ z ∈ zeros, z = 0) →
      perform .diagnostic s = .next (s, .value v)) ∧
    ((s.out = [] ∨ ∃ (front : List Int) (v : Int), s.out = front ++ [v] ∧ ∃ z ∈ front, z ≠ 0) →
      perform .diagnostic s = .next (s, .badDiagnostic))

/-- `idle`, `ip` and `rb` answer their register at rest on an instance that is not Faulted, `status` and `fault` on any at
rest; none changes anything (R187, R188; decision D26). -/
def Obligations.AccessorsAnswerTheirRegister : Prop :=
  ∀ s : State, s.active = false →
    perform .status s = .next (s, .statusIs s.status) ∧ perform .fault s = .next (s, .faultIs s.fault) ∧
    (s.status ≠ .faulted → perform .idle s = .next (s, .flag s.idle) ∧ perform .ip s = .next (s, .value s.ip) ∧
      perform .rb s = .next (s, .value s.rb))

/-- While the engine is active every host operation is refused, but for `add_input` during an interactive hold, and then it
appends (R171, R235; decision D23); a hold is only at an IN below the limit with an empty queue in the interactive variant
(R144). -/
def Obligations.HostActsOnlyAtRest : Prop :=
  ∀ s : State, s.active = true →
    (∀ op : HostOp, (holding s = false ∨ ((∀ x, op ≠ .addInput x) ∧ ∀ xs, op ≠ .addInputs xs)) →
      perform op s = .refused .hostWhileActive) ∧
    (holding s = true →
      (s.inputMode = .interactive ∧ s.inq = [] ∧ s.maxIn ≠ some s.inCount ∧ ∃ dst, fetch s = .ok (.inp dst)) ∧
      (∀ x, perform (.addInput x) s = .next ({ s with inq := s.inq ++ [x] }, .nothing)) ∧
      ∀ xs, perform (.addInputs xs) s = .next ({ s with inq := s.inq ++ xs }, .nothing))

/-- `new` at rest builds a fresh instance whatever the old one was (R230, R231): every field at its value of R37, the variant by
its arguments (decision D21), and asking for both variants is refused. -/
def Obligations.NewBuildsAFreshInstance : Prop :=
  ∀ (s : State) (program inputs : List Int) (d : Int), s.active = false →
    perform (.new program inputs none false) s = .next (construct program inputs .queued, .nothing) ∧
    perform (.new program inputs (some d) false) s = .next (construct program inputs (.defaulted d), .nothing) ∧
    perform (.new program inputs none true) s = .next (construct program inputs .interactive, .nothing) ∧
    perform (.new program inputs (some d) true) s = .refused .bothInputVariants ∧
    ∀ mode, (construct program inputs mode).ip = 0 ∧ (construct program inputs mode).rb = 0 ∧
      (construct program inputs mode).inq = inputs ∧ (construct program inputs mode).out = [] ∧
      (construct program inputs mode).status = .running ∧ (construct program inputs mode).active = false ∧
      (construct program inputs mode).idle = false ∧ (construct program inputs mode).fault = none ∧
      (construct program inputs mode).outCount = 0 ∧ (construct program inputs mode).inCount = 0 ∧
      (construct program inputs mode).maxOut = none ∧ (construct program inputs mode).maxIn = none ∧
      (construct program inputs mode).inputMode = mode

/-- Instances share nothing and are run one at a time (R35, R66, R217). A move of one leaves every other as it was, and its own
next state depends on itself alone; while one is inside a run no other starts or advances one, and while none other is every
move has its effect; from a system with at most one run going on, every list of moves leads to such a system; and what a list
of moves does to an instance is what the instance's own moves in it do. Which operations another's run leaves permitted is
log entry 14. -/
def Obligations.InstancesAreIsolated : Prop :=
  (∀ (k : Nat) (e : Event) (xs ys : List State), actOn k e xs = .next ys →
    (∀ j, j ≠ k → ys[j]? = xs[j]?) ∧ ∃ s t, xs[k]? = some s ∧ ys[k]? = some t ∧ e.act s = .next t) ∧
  (∀ (k j : Nat) (e : Event) (xs : List State) (s u : State), j ≠ k → xs[k]? = some s → xs[j]? = some u → u.active = true →
    (e = .engine ∨ ∃ a b, e = .host (.run a b)) → actOn k e xs = .refused .anotherInstanceRuns) ∧
  (∀ (k : Nat) (e : Event) (xs : List State) (s t : State), xs[k]? = some s → e.act s = .next t →
    (∀ j u, j ≠ k → xs[j]? = some u → u.active = false) → actOn k e xs = .next (xs.set k t)) ∧
  (∀ (ms : List SystemEvent) (xs ys : List State), OneRunAtATime xs → systemSession ms xs = .next ys → OneRunAtATime ys) ∧
  (∀ (ms : List SystemEvent) (xs ys : List State) (k : Nat) (s : State), xs[k]? = some s → systemSession ms xs = .next ys →
    ∃ t, ys[k]? = some t ∧ session (movesOf k ms) s = .next t)

/-- The word the host places is the next instruction run: when the decoder reads `i` from it, the step of the state with that
word placed is `exec i` there (the model's interface, log entry 8). -/
def Obligations.PlacedWordIsTheNextInstructionRun : Prop :=
  ∀ (s : State) (nbits w : Nat) (i : Instr), s.mem.wf = true → decodeTableWord nbits w = some i →
    step (s.withFetchWord nbits w) = exec i (s.withFetchWord nbits w)
end

