-- ==== Sys2Proof/Laws/Decode.lean ====
section
/-! SUPPORT. What the decoder's parts can answer, said once. -/

namespace Sys2Proof

/-- The codes an opcode is read from (R72). -/
theorem Opcode.ofCode_eq_some {n : Nat} {op : Opcode} : Opcode.ofCode n = some op ↔ n = op.code := by
  constructor
  · intro h
    unfold Opcode.ofCode at h
    split at h <;> first | cases h; rfl | cases h
  · rintro rfl
    cases op <;> rfl

/-- `splitWord` refuses only as InvalidOpcode, with the word itself (R103). -/
theorem splitWord_error {w : Int} {e : WordError} (h : splitWord w = .error e) : e = .invalidOpcode w := by
  unfold splitWord at h
  split at h
  · cases h; rfl
  · split at h
    · cases h; rfl
    · split at h <;> cases h
      rfl

/-- `splitWord` accepts exactly the words of at most five digits whose low two are an opcode (R71, R103). -/
theorem splitWord_ok {w : Int} {f : Fields} :
    splitWord w = .ok f ↔
      0 ≤ w ∧ w < 100000 ∧ w.toNat % 100 = f.op.code ∧ f.m1 = digit 2 w.toNat ∧ f.m2 = digit 3 w.toNat ∧
        f.m3 = digit 4 w.toNat := by
  unfold splitWord
  split
  · simp; omega
  · split
    · simp; omega
    · split
      · rename_i h
        simp only [reduceCtorEq, false_iff]
        rintro ⟨-, -, hc, -⟩
        rw [Opcode.ofCode_eq_some.2 hc] at h
        cases h
      · rename_i op h
        rw [Opcode.ofCode_eq_some] at h
        obtain ⟨op', m1, m2, m3⟩ := f
        constructor
        · intro hf
          cases hf
          exact ⟨by omega, by omega, h, rfl, rfl, rfl⟩
        · rintro ⟨-, -, hc, rfl, rfl, rfl⟩
          have : op = op' := by
            have := Opcode.ofCode_eq_some.2 (h.symm.trans hc)
            rw [Opcode.ofCode_eq_some.2 rfl] at this
            exact Option.some.inj this
          rw [this]

/-- `checkModes` refuses only as InvalidMode, with the word itself (R104). -/
theorem checkModes_error {policy : UnusedModePolicy} {w : Int} {f : Fields} {e : WordError}
    (h : checkModes policy w f = .error e) : e = .invalidMode w := by
  unfold checkModes at h
  split at h <;> cases h
  rfl

/-- `checkModes` accepts exactly when every digit names a mode at its position (R104). -/
theorem checkModes_ok {policy : UnusedModePolicy} {w : Int} {f : Fields} {h : Header} :
    checkModes policy w f = .ok h ↔
      f.op = h.op ∧ modeOf policy f.op.kinds[0]? f.m1 = some h.m1 ∧ modeOf policy f.op.kinds[1]? f.m2 = some h.m2 ∧
        modeOf policy f.op.kinds[2]? f.m3 = some h.m3 := by
  obtain ⟨op, m1, m2, m3⟩ := h
  unfold checkModes
  split
  · simp_all
  · rename_i hne
    simp only [reduceCtorEq, false_iff]
    rintro ⟨-, h1, h2, h3⟩
    exact hne _ _ _ h1 h2 h3

/-- `decodeHeader` accepts exactly what both its steps accept. -/
theorem decodeHeader_ok {w : Int} {h : Header} :
    decodeHeader w = .ok h ↔ ∃ f, splitWord w = .ok f ∧ checkModes .fault w f = .ok h := by
  unfold decodeHeader decodeHeaderWith Config.unusedModePolicy
  cases splitWord w <;> simp

/-- `decodeHeader` refuses as InvalidOpcode or InvalidMode, with the word itself (R201, R202). -/
theorem decodeHeader_error {w : Int} {e : WordError} (h : decodeHeader w = .error e) :
    e = .invalidOpcode w ∨ e = .invalidMode w := by
  unfold decodeHeader decodeHeaderWith at h
  split at h
  · cases h; exact .inl (splitWord_error ‹_›)
  · exact .inr (checkModes_error h)

end Sys2Proof
end

