-- ==== Sys2Proof/Laws/State.lean ====
section
/-! SUPPORT. One lemma per field per update of State, so that no later proof unfolds a record update. -/

namespace Sys2Proof.Machine

variable (s : State)

/-! ### `storeCell` -/

@[simp] theorem State.storeCell_mem (dst : Nat) (v : Int) : (s.storeCell dst v).mem = s.mem.write dst v := rfl
@[simp] theorem State.storeCell_ip (dst : Nat) (v : Int) : (s.storeCell dst v).ip = s.ip := rfl
@[simp] theorem State.storeCell_rb (dst : Nat) (v : Int) : (s.storeCell dst v).rb = s.rb := rfl
@[simp] theorem State.storeCell_inq (dst : Nat) (v : Int) : (s.storeCell dst v).inq = s.inq := rfl
@[simp] theorem State.storeCell_out (dst : Nat) (v : Int) : (s.storeCell dst v).out = s.out := rfl
@[simp] theorem State.storeCell_status (dst : Nat) (v : Int) : (s.storeCell dst v).status = s.status := rfl
@[simp] theorem State.storeCell_active (dst : Nat) (v : Int) : (s.storeCell dst v).active = s.active := rfl
@[simp] theorem State.storeCell_outCount (dst : Nat) (v : Int) : (s.storeCell dst v).outCount = s.outCount := rfl
@[simp] theorem State.storeCell_inCount (dst : Nat) (v : Int) : (s.storeCell dst v).inCount = s.inCount := rfl
@[simp] theorem State.storeCell_maxOut (dst : Nat) (v : Int) : (s.storeCell dst v).maxOut = s.maxOut := rfl
@[simp] theorem State.storeCell_maxIn (dst : Nat) (v : Int) : (s.storeCell dst v).maxIn = s.maxIn := rfl
@[simp] theorem State.storeCell_idle (dst : Nat) (v : Int) : (s.storeCell dst v).idle = s.idle := rfl
@[simp] theorem State.storeCell_fault (dst : Nat) (v : Int) : (s.storeCell dst v).fault = s.fault := rfl
@[simp] theorem State.storeCell_inputMode (dst : Nat) (v : Int) : (s.storeCell dst v).inputMode = s.inputMode := rfl

/-! ### `advance` -/

@[simp] theorem State.advance_mem (n : Nat) : (s.advance n).mem = s.mem := rfl
@[simp] theorem State.advance_ip (n : Nat) : (s.advance n).ip = s.ip + Int.ofNat n := rfl
@[simp] theorem State.advance_rb (n : Nat) : (s.advance n).rb = s.rb := rfl
@[simp] theorem State.advance_inq (n : Nat) : (s.advance n).inq = s.inq := rfl
@[simp] theorem State.advance_out (n : Nat) : (s.advance n).out = s.out := rfl
@[simp] theorem State.advance_status (n : Nat) : (s.advance n).status = s.status := rfl
@[simp] theorem State.advance_active (n : Nat) : (s.advance n).active = s.active := rfl
@[simp] theorem State.advance_outCount (n : Nat) : (s.advance n).outCount = s.outCount := rfl
@[simp] theorem State.advance_inCount (n : Nat) : (s.advance n).inCount = s.inCount := rfl
@[simp] theorem State.advance_maxOut (n : Nat) : (s.advance n).maxOut = s.maxOut := rfl
@[simp] theorem State.advance_maxIn (n : Nat) : (s.advance n).maxIn = s.maxIn := rfl
@[simp] theorem State.advance_idle (n : Nat) : (s.advance n).idle = s.idle := rfl
@[simp] theorem State.advance_fault (n : Nat) : (s.advance n).fault = s.fault := rfl
@[simp] theorem State.advance_inputMode (n : Nat) : (s.advance n).inputMode = s.inputMode := rfl

/-! ### `jumpTo` -/

@[simp] theorem State.jumpTo_mem (v : Int) : (s.jumpTo v).mem = s.mem := rfl
@[simp] theorem State.jumpTo_ip (v : Int) : (s.jumpTo v).ip = v := rfl
@[simp] theorem State.jumpTo_rb (v : Int) : (s.jumpTo v).rb = s.rb := rfl
@[simp] theorem State.jumpTo_inq (v : Int) : (s.jumpTo v).inq = s.inq := rfl
@[simp] theorem State.jumpTo_out (v : Int) : (s.jumpTo v).out = s.out := rfl
@[simp] theorem State.jumpTo_status (v : Int) : (s.jumpTo v).status = s.status := rfl
@[simp] theorem State.jumpTo_active (v : Int) : (s.jumpTo v).active = s.active := rfl
@[simp] theorem State.jumpTo_outCount (v : Int) : (s.jumpTo v).outCount = s.outCount := rfl
@[simp] theorem State.jumpTo_inCount (v : Int) : (s.jumpTo v).inCount = s.inCount := rfl
@[simp] theorem State.jumpTo_maxOut (v : Int) : (s.jumpTo v).maxOut = s.maxOut := rfl
@[simp] theorem State.jumpTo_maxIn (v : Int) : (s.jumpTo v).maxIn = s.maxIn := rfl
@[simp] theorem State.jumpTo_idle (v : Int) : (s.jumpTo v).idle = s.idle := rfl
@[simp] theorem State.jumpTo_fault (v : Int) : (s.jumpTo v).fault = s.fault := rfl
@[simp] theorem State.jumpTo_inputMode (v : Int) : (s.jumpTo v).inputMode = s.inputMode := rfl

/-! ### `adjustBase` -/

@[simp] theorem State.adjustBase_mem (v : Int) : (s.adjustBase v).mem = s.mem := rfl
@[simp] theorem State.adjustBase_ip (v : Int) : (s.adjustBase v).ip = s.ip := rfl
@[simp] theorem State.adjustBase_rb (v : Int) : (s.adjustBase v).rb = s.rb + v := rfl
@[simp] theorem State.adjustBase_inq (v : Int) : (s.adjustBase v).inq = s.inq := rfl
@[simp] theorem State.adjustBase_out (v : Int) : (s.adjustBase v).out = s.out := rfl
@[simp] theorem State.adjustBase_status (v : Int) : (s.adjustBase v).status = s.status := rfl
@[simp] theorem State.adjustBase_active (v : Int) : (s.adjustBase v).active = s.active := rfl
@[simp] theorem State.adjustBase_outCount (v : Int) : (s.adjustBase v).outCount = s.outCount := rfl
@[simp] theorem State.adjustBase_inCount (v : Int) : (s.adjustBase v).inCount = s.inCount := rfl
@[simp] theorem State.adjustBase_maxOut (v : Int) : (s.adjustBase v).maxOut = s.maxOut := rfl
@[simp] theorem State.adjustBase_maxIn (v : Int) : (s.adjustBase v).maxIn = s.maxIn := rfl
@[simp] theorem State.adjustBase_idle (v : Int) : (s.adjustBase v).idle = s.idle := rfl
@[simp] theorem State.adjustBase_fault (v : Int) : (s.adjustBase v).fault = s.fault := rfl
@[simp] theorem State.adjustBase_inputMode (v : Int) : (s.adjustBase v).inputMode = s.inputMode := rfl

/-! ### `appendOutput` -/

@[simp] theorem State.appendOutput_mem (v : Int) : (s.appendOutput v).mem = s.mem := rfl
@[simp] theorem State.appendOutput_ip (v : Int) : (s.appendOutput v).ip = s.ip := rfl
@[simp] theorem State.appendOutput_rb (v : Int) : (s.appendOutput v).rb = s.rb := rfl
@[simp] theorem State.appendOutput_inq (v : Int) : (s.appendOutput v).inq = s.inq := rfl
@[simp] theorem State.appendOutput_out (v : Int) : (s.appendOutput v).out = s.out ++ [v] := rfl
@[simp] theorem State.appendOutput_status (v : Int) : (s.appendOutput v).status = s.status := rfl
@[simp] theorem State.appendOutput_active (v : Int) : (s.appendOutput v).active = s.active := rfl
@[simp] theorem State.appendOutput_outCount (v : Int) : (s.appendOutput v).outCount = s.outCount + 1 := rfl
@[simp] theorem State.appendOutput_inCount (v : Int) : (s.appendOutput v).inCount = s.inCount := rfl
@[simp] theorem State.appendOutput_maxOut (v : Int) : (s.appendOutput v).maxOut = s.maxOut := rfl
@[simp] theorem State.appendOutput_maxIn (v : Int) : (s.appendOutput v).maxIn = s.maxIn := rfl
@[simp] theorem State.appendOutput_idle (v : Int) : (s.appendOutput v).idle = s.idle := rfl
@[simp] theorem State.appendOutput_fault (v : Int) : (s.appendOutput v).fault = s.fault := rfl
@[simp] theorem State.appendOutput_inputMode (v : Int) : (s.appendOutput v).inputMode = s.inputMode := rfl

/-! ### `countInput` -/

@[simp] theorem State.countInput_mem : (s.countInput).mem = s.mem := rfl
@[simp] theorem State.countInput_ip : (s.countInput).ip = s.ip := rfl
@[simp] theorem State.countInput_rb : (s.countInput).rb = s.rb := rfl
@[simp] theorem State.countInput_inq : (s.countInput).inq = s.inq := rfl
@[simp] theorem State.countInput_out : (s.countInput).out = s.out := rfl
@[simp] theorem State.countInput_status : (s.countInput).status = s.status := rfl
@[simp] theorem State.countInput_active : (s.countInput).active = s.active := rfl
@[simp] theorem State.countInput_outCount : (s.countInput).outCount = s.outCount := rfl
@[simp] theorem State.countInput_inCount : (s.countInput).inCount = s.inCount + 1 := rfl
@[simp] theorem State.countInput_maxOut : (s.countInput).maxOut = s.maxOut := rfl
@[simp] theorem State.countInput_maxIn : (s.countInput).maxIn = s.maxIn := rfl
@[simp] theorem State.countInput_idle : (s.countInput).idle = s.idle := rfl
@[simp] theorem State.countInput_fault : (s.countInput).fault = s.fault := rfl
@[simp] theorem State.countInput_inputMode : (s.countInput).inputMode = s.inputMode := rfl

/-! ### `pause` -/

@[simp] theorem State.pause_mem (st : Status) : (s.pause st).mem = s.mem := rfl
@[simp] theorem State.pause_ip (st : Status) : (s.pause st).ip = s.ip := rfl
@[simp] theorem State.pause_rb (st : Status) : (s.pause st).rb = s.rb := rfl
@[simp] theorem State.pause_inq (st : Status) : (s.pause st).inq = s.inq := rfl
@[simp] theorem State.pause_out (st : Status) : (s.pause st).out = s.out := rfl
@[simp] theorem State.pause_status (st : Status) : (s.pause st).status = st := rfl
@[simp] theorem State.pause_active (st : Status) : (s.pause st).active = false := rfl
@[simp] theorem State.pause_outCount (st : Status) : (s.pause st).outCount = s.outCount := rfl
@[simp] theorem State.pause_inCount (st : Status) : (s.pause st).inCount = s.inCount := rfl
@[simp] theorem State.pause_maxOut (st : Status) : (s.pause st).maxOut = s.maxOut := rfl
@[simp] theorem State.pause_maxIn (st : Status) : (s.pause st).maxIn = s.maxIn := rfl
@[simp] theorem State.pause_idle (st : Status) : (s.pause st).idle = s.idle := rfl
@[simp] theorem State.pause_fault (st : Status) : (s.pause st).fault = s.fault := rfl
@[simp] theorem State.pause_inputMode (st : Status) : (s.pause st).inputMode = s.inputMode := rfl

/-! ### `halt` -/

@[simp] theorem State.halt_mem : (s.halt).mem = s.mem := rfl
@[simp] theorem State.halt_ip : (s.halt).ip = s.ip := rfl
@[simp] theorem State.halt_rb : (s.halt).rb = s.rb := rfl
@[simp] theorem State.halt_inq : (s.halt).inq = s.inq := rfl
@[simp] theorem State.halt_out : (s.halt).out = s.out := rfl
@[simp] theorem State.halt_status : (s.halt).status = .halted := rfl
@[simp] theorem State.halt_active : (s.halt).active = false := rfl
@[simp] theorem State.halt_outCount : (s.halt).outCount = s.outCount := rfl
@[simp] theorem State.halt_inCount : (s.halt).inCount = s.inCount := rfl
@[simp] theorem State.halt_maxOut : (s.halt).maxOut = s.maxOut := rfl
@[simp] theorem State.halt_maxIn : (s.halt).maxIn = s.maxIn := rfl
@[simp] theorem State.halt_idle : (s.halt).idle = s.idle := rfl
@[simp] theorem State.halt_fault : (s.halt).fault = s.fault := rfl
@[simp] theorem State.halt_inputMode : (s.halt).inputMode = s.inputMode := rfl

/-! ### `raiseFault` -/

@[simp] theorem State.raiseFault_mem (c : Cause) (x : Int) : (s.raiseFault c x).mem = s.mem := rfl
@[simp] theorem State.raiseFault_ip (c : Cause) (x : Int) : (s.raiseFault c x).ip = s.ip := rfl
@[simp] theorem State.raiseFault_rb (c : Cause) (x : Int) : (s.raiseFault c x).rb = s.rb := rfl
@[simp] theorem State.raiseFault_inq (c : Cause) (x : Int) : (s.raiseFault c x).inq = s.inq := rfl
@[simp] theorem State.raiseFault_out (c : Cause) (x : Int) : (s.raiseFault c x).out = s.out := rfl
@[simp] theorem State.raiseFault_status (c : Cause) (x : Int) : (s.raiseFault c x).status = .faulted := rfl
@[simp] theorem State.raiseFault_active (c : Cause) (x : Int) : (s.raiseFault c x).active = false := rfl
@[simp] theorem State.raiseFault_outCount (c : Cause) (x : Int) : (s.raiseFault c x).outCount = s.outCount := rfl
@[simp] theorem State.raiseFault_inCount (c : Cause) (x : Int) : (s.raiseFault c x).inCount = s.inCount := rfl
@[simp] theorem State.raiseFault_maxOut (c : Cause) (x : Int) : (s.raiseFault c x).maxOut = s.maxOut := rfl
@[simp] theorem State.raiseFault_maxIn (c : Cause) (x : Int) : (s.raiseFault c x).maxIn = s.maxIn := rfl
@[simp] theorem State.raiseFault_idle (c : Cause) (x : Int) : (s.raiseFault c x).idle = s.idle := rfl
@[simp] theorem State.raiseFault_fault (c : Cause) (x : Int) : (s.raiseFault c x).fault = some ⟨c, s.ip, x⟩ := rfl
@[simp] theorem State.raiseFault_inputMode (c : Cause) (x : Int) : (s.raiseFault c x).inputMode = s.inputMode := rfl

/-! ### `startRun` -/

@[simp] theorem State.startRun_mem (mo mi : Option Nat) : (s.startRun mo mi).mem = s.mem := rfl
@[simp] theorem State.startRun_ip (mo mi : Option Nat) : (s.startRun mo mi).ip = s.ip := rfl
@[simp] theorem State.startRun_rb (mo mi : Option Nat) : (s.startRun mo mi).rb = s.rb := rfl
@[simp] theorem State.startRun_inq (mo mi : Option Nat) : (s.startRun mo mi).inq = s.inq := rfl
@[simp] theorem State.startRun_out (mo mi : Option Nat) : (s.startRun mo mi).out = s.out := rfl
@[simp] theorem State.startRun_status (mo mi : Option Nat) : (s.startRun mo mi).status = .running := rfl
@[simp] theorem State.startRun_active (mo mi : Option Nat) : (s.startRun mo mi).active = true := rfl
@[simp] theorem State.startRun_outCount (mo mi : Option Nat) : (s.startRun mo mi).outCount = 0 := rfl
@[simp] theorem State.startRun_inCount (mo mi : Option Nat) : (s.startRun mo mi).inCount = 0 := rfl
@[simp] theorem State.startRun_maxOut (mo mi : Option Nat) : (s.startRun mo mi).maxOut = mo := rfl
@[simp] theorem State.startRun_maxIn (mo mi : Option Nat) : (s.startRun mo mi).maxIn = mi := rfl
@[simp] theorem State.startRun_idle (mo mi : Option Nat) : (s.startRun mo mi).idle = s.idle := rfl
@[simp] theorem State.startRun_fault (mo mi : Option Nat) : (s.startRun mo mi).fault = s.fault := rfl
@[simp] theorem State.startRun_inputMode (mo mi : Option Nat) : (s.startRun mo mi).inputMode = s.inputMode := rfl

/-! ### `takeQueued` -/

@[simp] theorem State.takeQueued_mem (rest : List Int) : (s.takeQueued rest).mem = s.mem := rfl
@[simp] theorem State.takeQueued_ip (rest : List Int) : (s.takeQueued rest).ip = s.ip := rfl
@[simp] theorem State.takeQueued_rb (rest : List Int) : (s.takeQueued rest).rb = s.rb := rfl
@[simp] theorem State.takeQueued_inq (rest : List Int) : (s.takeQueued rest).inq = rest := rfl
@[simp] theorem State.takeQueued_out (rest : List Int) : (s.takeQueued rest).out = s.out := rfl
@[simp] theorem State.takeQueued_status (rest : List Int) : (s.takeQueued rest).status = s.status := rfl
@[simp] theorem State.takeQueued_active (rest : List Int) : (s.takeQueued rest).active = s.active := rfl
@[simp] theorem State.takeQueued_outCount (rest : List Int) : (s.takeQueued rest).outCount = s.outCount := rfl
@[simp] theorem State.takeQueued_inCount (rest : List Int) : (s.takeQueued rest).inCount = s.inCount := rfl
@[simp] theorem State.takeQueued_maxOut (rest : List Int) : (s.takeQueued rest).maxOut = s.maxOut := rfl
@[simp] theorem State.takeQueued_maxIn (rest : List Int) : (s.takeQueued rest).maxIn = s.maxIn := rfl
@[simp] theorem State.takeQueued_idle (rest : List Int) : (s.takeQueued rest).idle = false := rfl
@[simp] theorem State.takeQueued_fault (rest : List Int) : (s.takeQueued rest).fault = s.fault := rfl
@[simp] theorem State.takeQueued_inputMode (rest : List Int) : (s.takeQueued rest).inputMode = s.inputMode := rfl

/-! ### `takeDefault` -/

@[simp] theorem State.takeDefault_mem : (s.takeDefault).mem = s.mem := rfl
@[simp] theorem State.takeDefault_ip : (s.takeDefault).ip = s.ip := rfl
@[simp] theorem State.takeDefault_rb : (s.takeDefault).rb = s.rb := rfl
@[simp] theorem State.takeDefault_inq : (s.takeDefault).inq = s.inq := rfl
@[simp] theorem State.takeDefault_out : (s.takeDefault).out = s.out := rfl
@[simp] theorem State.takeDefault_status : (s.takeDefault).status = s.status := rfl
@[simp] theorem State.takeDefault_active : (s.takeDefault).active = s.active := rfl
@[simp] theorem State.takeDefault_outCount : (s.takeDefault).outCount = s.outCount := rfl
@[simp] theorem State.takeDefault_inCount : (s.takeDefault).inCount = s.inCount := rfl
@[simp] theorem State.takeDefault_maxOut : (s.takeDefault).maxOut = s.maxOut := rfl
@[simp] theorem State.takeDefault_maxIn : (s.takeDefault).maxIn = s.maxIn := rfl
@[simp] theorem State.takeDefault_idle : (s.takeDefault).idle = true := rfl
@[simp] theorem State.takeDefault_fault : (s.takeDefault).fault = s.fault := rfl
@[simp] theorem State.takeDefault_inputMode : (s.takeDefault).inputMode = s.inputMode := rfl

/-! ### `addInputs` -/

@[simp] theorem State.addInputs_mem (xs : List Int) : (s.addInputs xs).mem = s.mem := rfl
@[simp] theorem State.addInputs_ip (xs : List Int) : (s.addInputs xs).ip = s.ip := rfl
@[simp] theorem State.addInputs_rb (xs : List Int) : (s.addInputs xs).rb = s.rb := rfl
@[simp] theorem State.addInputs_inq (xs : List Int) : (s.addInputs xs).inq = s.inq ++ xs := rfl
@[simp] theorem State.addInputs_out (xs : List Int) : (s.addInputs xs).out = s.out := rfl
@[simp] theorem State.addInputs_status (xs : List Int) : (s.addInputs xs).status = s.status := rfl
@[simp] theorem State.addInputs_active (xs : List Int) : (s.addInputs xs).active = s.active := rfl
@[simp] theorem State.addInputs_outCount (xs : List Int) : (s.addInputs xs).outCount = s.outCount := rfl
@[simp] theorem State.addInputs_inCount (xs : List Int) : (s.addInputs xs).inCount = s.inCount := rfl
@[simp] theorem State.addInputs_maxOut (xs : List Int) : (s.addInputs xs).maxOut = s.maxOut := rfl
@[simp] theorem State.addInputs_maxIn (xs : List Int) : (s.addInputs xs).maxIn = s.maxIn := rfl
@[simp] theorem State.addInputs_idle (xs : List Int) : (s.addInputs xs).idle = s.idle := rfl
@[simp] theorem State.addInputs_fault (xs : List Int) : (s.addInputs xs).fault = s.fault := rfl
@[simp] theorem State.addInputs_inputMode (xs : List Int) : (s.addInputs xs).inputMode = s.inputMode := rfl

/-! ### `construct` -/

@[simp] theorem construct_mem (p xs : List Int) (m : InputMode) : (construct p xs m).mem = Memory.image 0 p := rfl
@[simp] theorem construct_ip (p xs : List Int) (m : InputMode) : (construct p xs m).ip = 0 := rfl
@[simp] theorem construct_rb (p xs : List Int) (m : InputMode) : (construct p xs m).rb = 0 := rfl
@[simp] theorem construct_inq (p xs : List Int) (m : InputMode) : (construct p xs m).inq = xs := rfl
@[simp] theorem construct_out (p xs : List Int) (m : InputMode) : (construct p xs m).out = [] := rfl
@[simp] theorem construct_status (p xs : List Int) (m : InputMode) : (construct p xs m).status = .running := rfl
@[simp] theorem construct_active (p xs : List Int) (m : InputMode) : (construct p xs m).active = false := rfl
@[simp] theorem construct_outCount (p xs : List Int) (m : InputMode) : (construct p xs m).outCount = 0 := rfl
@[simp] theorem construct_inCount (p xs : List Int) (m : InputMode) : (construct p xs m).inCount = 0 := rfl
@[simp] theorem construct_maxOut (p xs : List Int) (m : InputMode) : (construct p xs m).maxOut = none := rfl
@[simp] theorem construct_maxIn (p xs : List Int) (m : InputMode) : (construct p xs m).maxIn = none := rfl
@[simp] theorem construct_idle (p xs : List Int) (m : InputMode) : (construct p xs m).idle = false := rfl
@[simp] theorem construct_fault (p xs : List Int) (m : InputMode) : (construct p xs m).fault = none := rfl
@[simp] theorem construct_inputMode (p xs : List Int) (m : InputMode) : (construct p xs m).inputMode = m := rfl

/-- `State.reset` is the construction with the empty program, no inputs and the queued variant. -/
theorem reset_eq_construct : State.reset = construct [] [] .queued := rfl

end Sys2Proof.Machine
end

