-- ==== Sys2Proof/Laws/HostOps.lean ====
section
/-! SUPPORT. What the host's operations can answer, said once. -/

namespace Sys2Proof.Machine

/-- Everything an interactive hold says of a state: it is inside a run, below both limits, at an IN whose destination resolves,
with an empty queue in the interactive variant. -/
theorem holding_cases {s : State} (h : holding s = true) :
    s.active = true ∧ s.maxOut ≠ some s.outCount ∧ 0 ≤ s.ip ∧ s.maxIn ≠ some s.inCount ∧ s.inq = [] ∧
      s.inputMode = .interactive ∧ ∃ dst d, fetch s = .ok (.inp dst) ∧ resolveWrite s dst = .ok d := by
  simp only [holding, Bool.and_eq_true, Bool.not_eq_true', limitReached, decide_eq_true_eq, decide_eq_false_iff_not] at h
  obtain ⟨⟨⟨ha, hl⟩, hip⟩, hf⟩ := h
  split at hf
  · rename_i dst hi
    split at hf
    · rename_i d hd
      simp only [decide_eq_true_eq, inputSource, limitReached] at hf
      split at hf
      · cases hf
      · split at hf
        · cases hf
        · split at hf <;> first | (cases hf; done) | exact ⟨ha, hl, hip, by assumption, ‹_›, ‹_›, dst, d, hi, hd⟩
    · cases hf
  · cases hf

/-- Everything a host operation that is not refused can do: leave the state as it is, build a fresh instance, start a run,
supply input, or patch one cell; with the operation that does it and when it is permitted. -/
theorem perform_cases {op : HostOp} {s t : State} {r : Reply} (h : perform op s = .next (t, r)) :
    t = s ∨
      (∃ p xs d b mode, op = .new p xs d b ∧ variantOf d b = some mode ∧ s.active = false ∧ t = construct p xs mode) ∨
      (∃ a b mo mi, op = .run a b ∧ limitOf a = some mo ∧ limitOf b = some mi ∧ s.active = false ∧
        (s.status = .running ∨ s.status = .pausedOnOutputCount ∨ s.status = .pausedOnInputCount) ∧
        t = s.startRun mo mi) ∨
      (∃ xs, (op = .addInputs xs ∨ ∃ x, xs = [x] ∧ op = .addInput x) ∧
        (s.active = true ∧ holding s = true ∨ s.active = false ∧ s.status ≠ .faulted) ∧ t = s.addInputs xs) ∨
      (∃ a n v, op = .memoryWrite a v ∧ checkAddress a = .ok n ∧ s.active = false ∧ s.status ≠ .faulted ∧
        t = s.storeCell n v) := by
  unfold perform at h
  split at h
  · cases h
  · rename_i hp
    unfold notPermitted at hp
    cases op with
    | new p xs d b =>
      simp only [HostOp.suppliesInput, Bool.false_and, Bool.false_eq_true, if_false] at hp
      split at hp
      · cases hp
      · simp only [transact, hostNew] at h
        split at h <;> cases h
        exact .inr (.inl ⟨_, _, _, _, _, rfl, ‹_›, by simpa using ‹¬ s.active = true›, rfl⟩)
    | run a b =>
      simp only [HostOp.suppliesInput, Bool.false_and, Bool.false_eq_true, if_false] at hp
      split at hp
      · cases hp
      · have hact : s.active = false := by simpa using ‹¬ s.active = true›
        simp only [transact] at h
        split at h
        · rename_i mo mi ha hb
          unfold hostRun at h
          split at h
          · cases h; exact .inr (.inr (.inl ⟨_, _, _, _, rfl, ha, hb, hact, .inl ‹_›, rfl⟩))
          · cases h; exact .inr (.inr (.inl ⟨_, _, _, _, rfl, ha, hb, hact, .inr (.inl ‹_›), rfl⟩))
          · cases h; exact .inr (.inr (.inl ⟨_, _, _, _, rfl, ha, hb, hact, .inr (.inr ‹_›), rfl⟩))
          · cases h; exact .inl rfl
          · split at h <;> cases h
            exact .inl rfl
        · cases h
    | addInput x =>
      cases h
      refine .inr (.inr (.inr (.inl ⟨_, .inr ⟨x, rfl, rfl⟩, ?_, rfl⟩)))
      cases ha : s.active <;> simp_all [HostOp.suppliesInput, HostOp.allowedAfterFault]
    | addInputs xs =>
      cases h
      refine .inr (.inr (.inr (.inl ⟨_, .inl rfl, ?_, rfl⟩)))
      cases ha : s.active <;> simp_all [HostOp.suppliesInput, HostOp.allowedAfterFault]
    | memoryRead a =>
      simp only [transact] at h
      split at h <;> cases h
      exact .inl rfl
    | memoryWrite a v =>
      simp only [transact] at h
      split at h <;> cases h
      refine .inr (.inr (.inr (.inr ⟨_, _, _, rfl, ‹_›, ?_, ?_, rfl⟩))) <;>
        (cases ha : s.active <;> simp_all [HostOp.suppliesInput, HostOp.allowedAfterFault])
    | diagnostic =>
      simp only [transact] at h
      split at h <;> cases h <;> exact .inl rfl
    | outputLog => cases h; exact .inl rfl
    | idle => cases h; exact .inl rfl
    | status => cases h; exact .inl rfl
    | fault => cases h; exact .inl rfl
    | ip => cases h; exact .inl rfl
    | rb => cases h; exact .inl rfl

/-- A host's move that has a next state is a performed operation. -/
theorem act_host_cases {op : HostOp} {s t : State} (h : (Event.host op).act s = .next t) : ∃ r, perform op s = .next (t, r) := by
  simp only [Event.act] at h
  split at h <;> cases h
  exact ⟨_, ‹_›⟩

end Sys2Proof.Machine
end

