-- ==== Sys2Proof/Laws/Operands.lean ====
section
/-! SUPPORT. What each shared operation of a cycle can do, said once: one inversion lemma per operation. -/

namespace Sys2Proof.Machine

/-- `checkAddress` accepts exactly the non-negative integers. -/
theorem checkAddress_ok {a : Int} {n : Nat} : checkAddress a = .ok n ↔ 0 ≤ a ∧ n = a.toNat := by
  unfold checkAddress
  split <;> simp_all [eq_comm]

/-- `checkAddress` refuses exactly the negative integers, naming them. -/
theorem checkAddress_error {a e : Int} : checkAddress a = .error e ↔ a < 0 ∧ e = a := by
  unfold checkAddress
  split <;> simp_all [eq_comm]

/-- A read parameter that does not resolve names its negative effective address. -/
theorem resolveRead_error {s : State} {p : Param} {a : Int} (h : resolveRead s p = .error a) :
    effectiveAddress s p = some a ∧ a < 0 := by
  unfold resolveRead at h
  split at h
  · cases h
  · rename_i b hb
    split at h
    · cases h
    · rename_i e he
      obtain ⟨hneg, rfl⟩ := checkAddress_error.1 he
      cases h
      exact ⟨hb, hneg⟩

/-- A write parameter that does not resolve names a negative integer. -/
theorem resolveWrite_error {s : State} {p : Param} {a : Int} (h : resolveWrite s p = .error a) : a < 0 := by
  unfold resolveWrite at h
  split at h <;> (obtain ⟨hneg, rfl⟩ := checkAddress_error.1 h; exact hneg)

/-- Everything `withLegalModes` can answer. -/
theorem withLegalModes_cases {i : Instr} {s t : State} {k : Answer} (h : withLegalModes i s k = .next t) :
    (i.wellFormed = true ∧ k = .next t) ∨
      (i.wellFormed = false ∧ t = s.raiseFault .invalidMode i.headWord) := by
  unfold withLegalModes at h
  split at h
  · exact .inl ⟨‹_›, h⟩
  · exact .inr ⟨Bool.eq_false_iff.2 ‹_›, by cases h; rfl⟩

/-- Everything `withRead` can answer. -/
theorem withRead_cases {p : Param} {s t : State} {k : Int → Answer} (h : withRead p s k = .next t) :
    (∃ v, resolveRead s p = .ok v ∧ k v = .next t) ∨
      (∃ a, resolveRead s p = .error a ∧ t = s.raiseFault .negativeAddress a) := by
  unfold withRead at h
  split at h
  · exact .inl ⟨_, ‹_›, h⟩
  · exact .inr ⟨_, ‹_›, by cases h; rfl⟩

/-- Everything `withDst` can answer. -/
theorem withDst_cases {p : Param} {s t : State} {k : Nat → Answer} (h : withDst p s k = .next t) :
    (∃ d, resolveWrite s p = .ok d ∧ k d = .next t) ∨
      (∃ a, resolveWrite s p = .error a ∧ t = s.raiseFault .negativeAddress a) := by
  unfold withDst at h
  split at h
  · exact .inl ⟨_, ‹_›, h⟩
  · exact .inr ⟨_, ‹_›, by cases h; rfl⟩

/-- Everything the common course of ADD, MUL, LT, EQ can do: a fault, or the one write and the advance. -/
theorem storeResult_cases {i : Instr} {f : Int → Int → Int} {a b d : Param} {s t : State}
    (h : storeResult i f a b d s = .next t) :
    (i.wellFormed = false ∧ t = s.raiseFault .invalidMode i.headWord) ∨
      (∃ x, x < 0 ∧ t = s.raiseFault .negativeAddress x) ∨
      (∃ x y n, i.wellFormed = true ∧ resolveRead s a = .ok x ∧ resolveRead s b = .ok y ∧ resolveWrite s d = .ok n ∧
        t = (s.storeCell n (f x y)).advance 4) := by
  obtain ⟨hw, h⟩ | h := withLegalModes_cases h
  · obtain ⟨x, hx, h⟩ | ⟨e, he, rfl⟩ := withRead_cases h
    · obtain ⟨y, hy, h⟩ | ⟨e, he, rfl⟩ := withRead_cases h
      · obtain ⟨n, hn, h⟩ | ⟨e, he, rfl⟩ := withDst_cases h
        · cases h
          exact .inr (.inr ⟨x, y, n, hw, hx, hy, hn, rfl⟩)
        · exact .inr (.inl ⟨e, resolveWrite_error he, rfl⟩)
      · exact .inr (.inl ⟨e, (resolveRead_error he).2, rfl⟩)
    · exact .inr (.inl ⟨e, (resolveRead_error he).2, rfl⟩)
  · exact .inl h

/-- Everything the common course of JT and JF can do. -/
theorem jumpIf_cases {test : Int → Bool} {c g : Param} {s t : State} (h : jumpIf test c g s = .next t) :
    (∃ x, x < 0 ∧ t = s.raiseFault .negativeAddress x) ∨
      (∃ x y, resolveRead s c = .ok x ∧ resolveRead s g = .ok y ∧
        ((test x = true ∧ t = s.jumpTo y) ∨ (test x = false ∧ t = s.advance 3))) := by
  obtain ⟨x, hx, h⟩ | ⟨e, he, rfl⟩ := withRead_cases h
  · obtain ⟨y, hy, h⟩ | ⟨e, he, rfl⟩ := withRead_cases h
    · cases h
      refine .inr ⟨x, y, hx, hy, ?_⟩
      cases htest : test x <;> simp
    · exact .inl ⟨e, (resolveRead_error he).2, rfl⟩
  · exact .inl ⟨e, (resolveRead_error he).2, rfl⟩

/-- Everything step 7 of IN can do. -/
theorem input_cases {d : Nat} {s t : State} (h : input d s = .next t) :
    (s.maxIn = some s.inCount ∧ t = s.pause .pausedOnInputCount) ∨
      (∃ v rest, s.inq = v :: rest ∧ t = (((s.takeQueued rest).storeCell d v).countInput).advance 2) ∨
      (s.inq = [] ∧ s.inputMode = .queued ∧ t = s.raiseFault .inputExhausted 0) ∨
      (∃ v, s.inq = [] ∧ s.inputMode = .defaulted v ∧
        t = ((s.takeDefault.storeCell d v).countInput).advance 2) ∨
      (s.inq = [] ∧ s.inputMode = .interactive ∧ t = s) := by
  unfold input inputSource limitReached at h
  by_cases hl : s.maxIn = some s.inCount
  · simp only [hl, decide_true, if_true] at h
    cases h
    exact .inl ⟨hl, rfl⟩
  · simp only [hl, decide_false] at h
    cases hq : s.inq with
    | cons v rest =>
      simp only [hq] at h
      cases h
      exact .inr (.inl ⟨v, rest, rfl, rfl⟩)
    | nil =>
      cases hm : s.inputMode with
      | queued =>
        simp only [hq, hm] at h
        cases h
        exact .inr (.inr (.inl ⟨rfl, rfl, rfl⟩))
      | defaulted v =>
        simp only [hq, hm] at h
        cases h
        exact .inr (.inr (.inr (.inl ⟨v, rfl, rfl, rfl⟩)))
      | interactive =>
        simp only [hq, hm] at h
        cases h
        exact .inr (.inr (.inr (.inr ⟨rfl, rfl, rfl⟩)))

/-- Everything IN can do. -/
theorem execIn_cases {p : Param} {s t : State} (h : execIn p s = .next t) :
    ((Instr.inp p).wellFormed = false ∧ t = s.raiseFault .invalidMode (Instr.inp p).headWord) ∨
      (∃ x, x < 0 ∧ t = s.raiseFault .negativeAddress x) ∨
      (∃ d, (Instr.inp p).wellFormed = true ∧ resolveWrite s p = .ok d ∧ input d s = .next t) := by
  obtain ⟨hw, h⟩ | h := withLegalModes_cases h
  · obtain ⟨d, hd, h⟩ | ⟨e, he, rfl⟩ := withDst_cases h
    · exact .inr (.inr ⟨d, hw, hd, h⟩)
    · exact .inr (.inl ⟨e, resolveWrite_error he, rfl⟩)
  · exact .inl h

/-- Everything OUT can do. -/
theorem execOut_cases {p : Param} {s t : State} (h : execOut p s = .next t) :
    (∃ x, x < 0 ∧ t = s.raiseFault .negativeAddress x) ∨
      (∃ v, resolveRead s p = .ok v ∧ t = (s.appendOutput v).advance 2) := by
  obtain ⟨v, hv, h⟩ | ⟨e, he, rfl⟩ := withRead_cases h
  · cases h
    exact .inr ⟨v, hv, rfl⟩
  · exact .inl ⟨e, (resolveRead_error he).2, rfl⟩

/-- Everything ARB can do. -/
theorem execArb_cases {p : Param} {s t : State} (h : execArb p s = .next t) :
    (∃ x, x < 0 ∧ t = s.raiseFault .negativeAddress x) ∨
      (∃ v, resolveRead s p = .ok v ∧ t = (s.adjustBase v).advance 2) := by
  obtain ⟨v, hv, h⟩ | ⟨e, he, rfl⟩ := withRead_cases h
  · cases h
    exact .inr ⟨v, hv, rfl⟩
  · exact .inl ⟨e, (resolveRead_error he).2, rfl⟩

/-- Everything a cycle can do before the instruction itself. -/
theorem cycle_cases (s : State) :
    (s.maxOut = some s.outCount ∧ cycle s = .next (s.pause .pausedOnOutputCount)) ∨
      (s.maxOut ≠ some s.outCount ∧ s.ip < 0 ∧ cycle s = .next (s.raiseFault .negativeAddress s.ip)) ∨
      (∃ e, s.maxOut ≠ some s.outCount ∧ 0 ≤ s.ip ∧ decodeHeader (s.mem.read s.ip.toNat) = .error e ∧
        cycle s = .next (raiseWordError s e)) ∨
      (∃ i, s.maxOut ≠ some s.outCount ∧ 0 ≤ s.ip ∧ fetch s = .ok i ∧ cycle s = exec i s) := by
  unfold cycle limitReached
  by_cases hl : s.maxOut = some s.outCount
  · exact .inl ⟨hl, by simp [hl]⟩
  · by_cases hip : s.ip < 0
    · exact .inr (.inl ⟨hl, hip, by simp [hl, hip]⟩)
    · have h0 : 0 ≤ s.ip := not_lt.1 hip
      cases hf : fetch s with
      | error e =>
        refine .inr (.inr (.inl ⟨e, hl, h0, ?_, by simp [hl, hip]⟩))
        unfold fetch at hf
        split at hf
        · cases hf; assumption
        · cases hf
      | ok i => exact .inr (.inr (.inr ⟨i, hl, h0, rfl, by simp [hl, hip]⟩))

/-- Everything the engine's step can do. -/
theorem engineStep_cases (s : State) :
    (s.active = true ∧ engineStep s = cycle s) ∨
      (s.active = false ∧ ∃ f, s.fault = some f ∧ engineStep s = .fault (.latched f.cause)) ∨
      (s.active = false ∧ s.fault = none ∧ engineStep s = .next s) := by
  unfold engineStep
  cases s.active <;> cases s.fault <;> simp

end Sys2Proof.Machine
end

