-- ==== Sys2Proof/Laws/Instances.lean ====
section
/-! SUPPORT. What a move of a system of instances can do, said once, and when another instance is inside a run. -/

namespace Sys2Proof.Machine

/-- Another instance is inside a run exactly when one stands at another place with ACTIVE true. -/
theorem anotherRuns_iff {k : Nat} {xs : List State} :
    anotherRuns k xs = true ↔ ∃ j s, j ≠ k ∧ xs[j]? = some s ∧ s.active = true := by
  simp only [anotherRuns, List.any_eq_true, List.mem_eraseIdx_iff_getElem?]
  constructor
  · rintro ⟨s, ⟨j, hj, hs⟩, ha⟩; exact ⟨j, s, hj, hs, ha⟩
  · rintro ⟨j, s, hj, hs, ha⟩; exact ⟨s, ⟨j, hj, hs⟩, ha⟩

/-- Everything a move of instance `k` can do: the instance is there, no other is inside a run if the move advances one, and
only that instance changes, to the next state of its own move. -/
theorem actOn_cases {k : Nat} {e : Event} {xs ys : List State} (h : actOn k e xs = .next ys) :
    ∃ s t, xs[k]? = some s ∧ e.act s = .next t ∧ ys = xs.set k t ∧ (e.advances = true → anotherRuns k xs = false) := by
  unfold actOn at h
  split at h
  · cases h
  · rename_i s hs
    split at h
    · cases h
    · rename_i hg
      split at h <;> cases h
      exact ⟨s, _, hs, ‹_›, rfl, fun ha => by simpa [ha] using hg⟩

/-- A move that is neither `run` nor an engine step starts no run. -/
theorem act_active_of_not_advances {e : Event} {s t : State} (he : e.advances = false) (h : e.act s = .next t)
    (ht : t.active = true) : s.active = true := by
  cases e with
  | engine => cases he
  | host op =>
    obtain ⟨r, hp⟩ := act_host_cases h
    rcases perform_cases hp with rfl | ⟨p, xs, d, b, m, rfl, -, -, rfl⟩ | ⟨a, b, mo, mi, rfl, -⟩ | ⟨xs, -, -, rfl⟩ |
      ⟨a, n, v, rfl, -, -, -, rfl⟩
    · exact ht
    · simp [construct, State.reset] at ht
    · cases he
    · simpa using ht
    · simpa using ht

end Sys2Proof.Machine
end

