-- ==== Sys2Proof/Laws/Memory.lean ====
section
/-! SUPPORT. Every memory operation keeps the canonical form of memory, and so does every construction. -/

namespace Sys2Proof.Machine

/-- A memory in canonical form from an address on is in canonical form from every lower address. -/
theorem Memory.wfFrom_mono {lo lo' : Nat} (h : lo' ≤ lo) : ∀ {m : Memory}, m.wfFrom lo = true → m.wfFrom lo' = true
  | [], _ => rfl
  | (a, v) :: m, hm => by
    simp only [Memory.wfFrom, Bool.and_eq_true, decide_eq_true_eq] at hm ⊢
    exact ⟨⟨h.trans hm.1.1, hm.1.2⟩, hm.2⟩

/-- A write at or above `lo` keeps the canonical form from `lo` on. -/
theorem Memory.wfFrom_write (a : Nat) (v : Int) :
    ∀ {m : Memory} {lo : Nat}, lo ≤ a → m.wfFrom lo = true → (m.write a v).wfFrom lo = true
  | [], lo, hlo, _ => by
    by_cases hv : v = 0 <;> simp [Memory.write, Memory.wfFrom, hv, hlo]
  | (b, w) :: m, lo, hlo, hm => by
    simp only [Memory.wfFrom, Bool.and_eq_true, decide_eq_true_eq] at hm
    obtain ⟨⟨hb, hw⟩, ht⟩ := hm
    rcases lt_trichotomy a b with hab | rfl | hab
    · have hm' : Memory.wfFrom (a + 1) ((b, w) :: m) = true := by simp [Memory.wfFrom, hw, ht, hab]
      have hm'' : Memory.wfFrom lo ((b, w) :: m) = true := by simp [Memory.wfFrom, hw, ht, hb]
      by_cases hv : v = 0
      · simpa [Memory.write, hab, hv] using hm''
      · simpa [Memory.write, hab, hv, Memory.wfFrom, hlo] using hm'
    · by_cases hv : v = 0
      · simpa [Memory.write, hv] using Memory.wfFrom_mono (Nat.le_succ_of_le hb) ht
      · simp [Memory.write, hv, Memory.wfFrom, hlo, ht]
    · have := Memory.wfFrom_write a v (m := m) (lo := b + 1) hab ht
      simp [Memory.write, Memory.wfFrom, hb, hw, this, Nat.not_lt.2 hab.le, hab.ne']

/-- A write keeps the canonical form (R52). -/
theorem Memory.write_wf (a : Nat) (v : Int) {m : Memory} (h : m.wf = true) : (m.write a v).wf = true :=
  Memory.wfFrom_write a v (Nat.zero_le a) h

/-- Writing a sequence of cells keeps the canonical form. -/
theorem Memory.writeList_wf : ∀ (ws : List Int) (base : Nat) {m : Memory}, m.wf = true → (m.writeList base ws).wf = true
  | [], _, _, h => h
  | w :: ws, base, _, h => Memory.writeList_wf ws (base + 1) (Memory.write_wf base w h)

/-- A program image at `base` is in canonical form from `base` on. -/
theorem Memory.wfFrom_image : ∀ (ws : List Int) (base : Nat), (Memory.image base ws).wfFrom base = true
  | [], _ => rfl
  | w :: ws, base => by
    have ih := Memory.wfFrom_image ws (base + 1)
    by_cases hw : w = 0
    · simpa [Memory.image, hw] using Memory.wfFrom_mono (Nat.le_succ base) ih
    · simp [Memory.image, hw, Memory.wfFrom, ih]

/-- The memory of every construction is in canonical form (R231). -/
theorem construct_mem_wf (p xs : List Int) (mode : InputMode) : (construct p xs mode).mem.wf = true :=
  Memory.wfFrom_image p 0

/-- The memory after reset is in canonical form. -/
theorem reset_mem_wf : State.reset.mem.wf = true := rfl

/-- A store keeps the canonical form of the state's memory. -/
theorem State.storeCell_mem_wf (s : State) (d : Nat) (v : Int) (h : s.mem.wf = true) :
    (s.storeCell d v).mem.wf = true :=
  Memory.write_wf d v h

/-- Placing an instruction for the next fetch keeps the canonical form. -/
theorem placeInstruction_mem_wf (s : State) (w : Int) (h : s.mem.wf = true) : (placeInstruction s w).mem.wf = true :=
  Memory.writeList_wf [w, 0, 0, 0] _ h

end Sys2Proof.Machine
end

