-- ==== Sys2Proof/Laws/PerInstr.lean ====
section
/-! SUPPORT. Statements made for every instruction, one lemma per constructor. -/

/-- An instruction's cells are as many as its length says (R70, R72, R84). -/
def Sys2Proof.Laws.EncodeLength.Statement (i : Sys2Proof.Instr) : Prop := (Sys2Proof.encode i).length = i.length

namespace Sys2Proof.Laws.EncodeLength

theorem add (a b d : Param) : Statement (.add a b d) := rfl
theorem mul (a b d : Param) : Statement (.mul a b d) := rfl
theorem inp (d : Param) : Statement (.inp d) := rfl
theorem out (a : Param) : Statement (.out a) := rfl
theorem jt (c t : Param) : Statement (.jt c t) := rfl
theorem jf (c t : Param) : Statement (.jf c t) := rfl
theorem lt (a b d : Param) : Statement (.lt a b d) := rfl
theorem eq (a b d : Param) : Statement (.eq a b d) := rfl
theorem arb (a : Param) : Statement (.arb a) := rfl
theorem hlt : Statement .hlt := rfl

end Sys2Proof.Laws.EncodeLength

/-- Every instruction word, an ill-formed instruction's too, is a non-negative number of at most five digits whose low two
digits are the opcode (R71, R76). -/
def Sys2Proof.Laws.HeadWordRange.Statement (i : Sys2Proof.Instr) : Prop :=
  0 ≤ i.headWord ∧ i.headWord < 100000 ∧ i.headWord % 100 = (i.opcode.code : Int)

namespace Sys2Proof.Laws.HeadWordRange

/-- A mode's digit is 0, 1 or 2 (R75). -/
theorem digit_le_two (m : Mode) : m.digit ≤ 2 := by cases m <;> decide

/-- The range of a number written from three digits up to 2 and an opcode below 100. -/
theorem range_of_digits (x y z c : Nat) (hx : x ≤ 2) (hy : y ≤ 2) (hz : z ≤ 2) (hc : c < 100) :
    0 ≤ Int.ofNat (10000 * x + 1000 * y + 100 * z + c) ∧ Int.ofNat (10000 * x + 1000 * y + 100 * z + c) < 100000 ∧
      Int.ofNat (10000 * x + 1000 * y + 100 * z + c) % 100 = (c : Int) := by
  simp only [Int.ofNat_eq_natCast]
  omega

theorem add (a b d : Param) : Statement (.add a b d) :=
  range_of_digits _ _ _ 1 (digit_le_two _) (digit_le_two _) (digit_le_two _) (by decide)
theorem mul (a b d : Param) : Statement (.mul a b d) :=
  range_of_digits _ _ _ 2 (digit_le_two _) (digit_le_two _) (digit_le_two _) (by decide)
theorem inp (d : Param) : Statement (.inp d) :=
  range_of_digits 0 0 _ 3 (by decide) (by decide) (digit_le_two _) (by decide)
theorem out (a : Param) : Statement (.out a) :=
  range_of_digits 0 0 _ 4 (by decide) (by decide) (digit_le_two _) (by decide)
theorem jt (c t : Param) : Statement (.jt c t) :=
  range_of_digits 0 _ _ 5 (by decide) (digit_le_two _) (digit_le_two _) (by decide)
theorem jf (c t : Param) : Statement (.jf c t) :=
  range_of_digits 0 _ _ 6 (by decide) (digit_le_two _) (digit_le_two _) (by decide)
theorem lt (a b d : Param) : Statement (.lt a b d) :=
  range_of_digits _ _ _ 7 (digit_le_two _) (digit_le_two _) (digit_le_two _) (by decide)
theorem eq (a b d : Param) : Statement (.eq a b d) :=
  range_of_digits _ _ _ 8 (digit_le_two _) (digit_le_two _) (digit_le_two _) (by decide)
theorem arb (a : Param) : Statement (.arb a) :=
  range_of_digits 0 0 _ 9 (by decide) (by decide) (digit_le_two _) (by decide)
theorem hlt : Statement .hlt := range_of_digits 0 0 0 99 (by decide) (by decide) (by decide) (by decide)

end Sys2Proof.Laws.HeadWordRange
end

