-- ==== Sys2Proof/Tests/Slice0.lean ====
section
/-! SUPPORT. The model's own tests: the well-formedness smoke, words decoded as the spec encodes them, one-step tests whose
expected values are those of 95_test_vectors.md, and a witness for each statement that has hypotheses. -/

namespace Sys2Proof.Tests

open Sys2Proof Sys2Proof.Machine

/-! ## Helpers -/

/-- A run without limits that has just started on a program, its inputs and a variant. -/
def running (program inputs : List Int) (mode : InputMode) : State := (construct program inputs mode).startRun none none

/-- The queued variant without inputs, with a chosen RB. -/
def runningAt (rb : Int) (program : List Int) : State := { running program [] .queued with rb := rb }

/-- The next state of an answer, if it is one. -/
def nextOf : Answer → Option State
  | .next s => some s
  | .fault _ => none
  | .refused _ => none

/-- A property of the state after one step. -/
def after (s : State) (p : State → Bool) : Bool :=
  match step s with
  | .next t => p t
  | .fault _ => false
  | .refused _ => false

/-- Parameters in the three modes. -/
def pos (v : Int) : Param := ⟨.position, v⟩
def imm (v : Int) : Param := ⟨.immediate, v⟩
def rel (v : Int) : Param := ⟨.relative, v⟩

/-! ## Well-formedness: an immediate destination is refused (R75, R79), every other instruction accepted -/

theorem test_wf_add_refuses_immediate_destination : (Instr.add (imm 1) (imm 2) (imm 3)).wellFormed = false := by decide
theorem test_wf_mul_refuses_immediate_destination : (Instr.mul (pos 1) (rel 2) (imm 3)).wellFormed = false := by decide
theorem test_wf_in_refuses_immediate_destination : (Instr.inp (imm 3)).wellFormed = false := by decide
theorem test_wf_lt_refuses_immediate_destination : (Instr.lt (pos 1) (pos 2) (imm 3)).wellFormed = false := by decide
theorem test_wf_eq_refuses_immediate_destination : (Instr.eq (pos 1) (pos 2) (imm 3)).wellFormed = false := by decide
theorem test_wf_accepts_relative_destination : (Instr.add (imm 1) (imm 2) (rel 3)).wellFormed = true := by decide
theorem test_wf_accepts_immediate_target : (Instr.jt (imm 1) (imm (-1))).wellFormed = true := by decide

/-! ## Decoding: the words of 95_test_vectors.md 2.1 and R114, digit by digit from R71 -/

theorem test_decode_add : decode [1, 5, 6, 7] = .ok (.add (pos 5) (pos 6) (pos 7), []) := by decide
theorem test_decode_mul : decode [1002, 4, 3, 4, 33] = .ok (.mul (pos 4) (imm 3) (pos 4), [33]) := by decide
theorem test_decode_in : decode [203, -4] = .ok (.inp (rel (-4)), []) := by decide
theorem test_decode_out : decode [104, 1125899906842624, 99] = .ok (.out (imm 1125899906842624), [99]) := by decide
theorem test_decode_jt : decode [2105, 1, 2] = .ok (.jt (imm 1) (rel 2), []) := by decide
theorem test_decode_jf : decode [1206, 1, 2] = .ok (.jf (rel 1) (imm 2), []) := by decide
theorem test_decode_lt : decode [21107, 1, 2, 3] = .ok (.lt (imm 1) (imm 2) (rel 3), []) := by decide
theorem test_decode_eq : decode [22208, 1, 2, 3] = .ok (.eq (rel 1) (rel 2) (rel 3), []) := by decide
theorem test_decode_arb : decode [209, 1] = .ok (.arb (rel 1), []) := by decide
theorem test_decode_hlt : decode [99] = .ok (.hlt, []) := by decide
theorem test_decode_refuses_opcodes : ∀ w ∈ ([0, 10, 98, 100, 1000, 398, -1, 100001] : List Int),
    decodeHeader w = .error (.invalidOpcode w) := by decide
theorem test_decode_refuses_modes : ∀ w ∈ ([301, 901, 10001, 103, 199, 1104, 10005, 20099] : List Int),
    decodeHeader w = .error (.invalidMode w) := by decide
theorem test_decode_ignores_unused_digits : decodeHeaderWith .ignore 1104 = decodeHeaderWith .ignore 104 ∧
    decodeHeaderWith .ignore 20099 = decodeHeaderWith .ignore 99 := by decide
theorem test_decode_refuses_a_list_that_ends_early : decode [1, 5, 6] = .error .truncated := by decide
theorem test_encode_is_the_word_of_the_spec :
    encode (.lt (imm 1) (imm 2) (rel 3)) = [21107, 1, 2, 3] ∧ encode (.jf (pos 7) (imm 4)) = [1006, 7, 4] := by decide
theorem test_table_word : decodeTableWord 16 1206 = some (.jf (rel 0) (imm 0)) ∧ decodeTableWord 16 398 = none := by decide

/-! ## One step of each instruction: the vectors of 95_test_vectors.md -/

/-- A4. -/
theorem test_add_does_not_wrap : after (running [1101, -9223372036854775808, -1, 5, 99, 0] [] .queued)
    (fun t => t.mem.read 5 == -9223372036854775809 && t.ip == 4) = true := by decide
/-- A10. -/
theorem test_add_reads_relative : after (runningAt 8 [2201, -1, 1, 6, 99, 0, 0, 40, 2])
    (fun t => t.mem.read 6 == 40 && t.rb == 8) = true := by decide
/-- M4. -/
theorem test_mul_keeps_the_whole_product : after (running [1102, 1099511627776, 1099511627776, 5, 99, 0] [] .queued)
    (fun t => t.mem.read 5 == 1208925819614629174706176) = true := by decide
/-- T3. -/
theorem test_mul_mixed_modes : after (running [1002, 4, 3, 4, 33] [] .queued)
    (fun t => t.mem.read 4 == 99 && t.ip == 4) = true := by decide
/-- 2.5: -1 < 0. -/
theorem test_lt_is_signed : after (running [1107, -1, 0, 5, 99, 77] [] .queued) (fun t => t.mem.read 5 == 1) = true := by
  decide
/-- 2.5: 5 < 5 is false, and the old content is replaced. -/
theorem test_lt_equal_is_zero : after (running [1107, 5, 5, 5, 99, 77] [] .queued) (fun t => t.mem.read 5 == 0) = true := by
  decide
/-- 2.6: no truncation to 64 bits. -/
theorem test_eq_does_not_truncate : after (running [1108, 18446744073709551616, 0, 5, 99, 77] [] .queued)
    (fun t => t.mem.read 5 == 0 && t.ip == 4) = true := by decide
/-- 2.6: one cell three times. -/
theorem test_eq_in_place : after (running [8, 5, 5, 5, 99, 9] [] .queued) (fun t => t.mem.read 5 == 1) = true := by decide
/-- I2. -/
theorem test_in_takes_the_oldest : after (running [3, 3, 99, 0] [1, 2, 3] .queued)
    (fun t => t.mem.read 3 == 1 && t.inq == [2, 3] && !t.idle && t.ip == 2) = true := by decide
/-- I8. -/
theorem test_in_resolves_before_the_queue : after (running [3, -1, 99] [9] .queued)
    (fun t => t.fault == some ⟨.negativeAddress, 0, -1⟩ && t.inq == [9]) = true := by decide
/-- O3. -/
theorem test_out_relative : after (runningAt 4 [204, -1, 99, 66]) (fun t => t.out == [66] && t.ip == 2) = true := by decide
/-- O7. -/
theorem test_out_negative_address : after (running [4, -1, 99] [] .queued)
    (fun t => t.fault == some ⟨.negativeAddress, 0, -1⟩ && t.out == []) = true := by decide
/-- J5. -/
theorem test_jt_target_is_the_content_of_the_cell : after (runningAt 7 [2105, 1, 1, 99, 104, 7, 99, 0, 4])
    (fun t => t.ip == 4) = true := by decide
/-- J8. -/
theorem test_jt_not_taken : after (running [1105, 0, -1, 99] [] .queued) (fun t => t.ip == 3) = true := by decide
/-- J12. -/
theorem test_jf_to_a_negative_target : after (running [1106, 0, -5, 99] [] .queued)
    (fun t => t.ip == -5 && t.active && t.fault == none) = true := by decide
/-- J17. -/
theorem test_jf_resolves_the_target_when_not_taken : after (running [6, 0, -2, 99] [] .queued)
    (fun t => t.fault == some ⟨.negativeAddress, 0, -2⟩) = true := by decide
/-- R5. -/
theorem test_arb_reads_at_the_old_base : after (runningAt 5 [209, 1, 99, 0, 0, 0, 30])
    (fun t => t.rb == 35 && t.ip == 2) = true := by decide
/-- R2. -/
theorem test_arb_may_be_negative : after (running [109, -5, 99] [] .queued) (fun t => t.rb == -5) = true := by decide
/-- H1. -/
theorem test_hlt : after (running [99] [] .queued) (fun t => t.status == .halted && !t.active && t.ip == 1) = true := by
  decide
/-- H3. -/
theorem test_hlt_with_a_mode_digit : after (running [199] [] .queued)
    (fun t => t.fault == some ⟨.invalidMode, 0, 199⟩ && t.status == .faulted) = true := by decide

/-! ## Whole-cycle corners, the host and the notation -/

/-- H4: the empty program. -/
theorem test_empty_program_faults : after (running [] [] .queued)
    (fun t => t.fault == some ⟨.invalidOpcode, 0, 0⟩ && !t.active) = true := by decide
/-- F8: the output-count pause comes before the fetch. -/
theorem test_pause_before_the_fetch : after ((construct [-1] [] .queued).startRun (some 0) none)
    (fun t => t.status == .pausedOnOutputCount && t.ip == 0) = true := by decide
/-- G2, G5. -/
theorem test_diagnostic : diagnosticOf [0, 1, 0] = none ∧ diagnosticOf [] = none ∧ diagnosticOf [0, 0, 0, 7] = some 7 := by
  decide
/-- T10: a patch of one instance is not seen in the other; and `run` of the second is refused while the first runs. -/
theorem test_instances_are_apart :
    (match actOn 0 (.host (.memoryWrite 0 7)) [construct [1, 0, 0, 0, 99] [] .queued, construct [1, 0, 0, 0, 99] [] .queued] with
      | .next ys => ys.map fun s => s.mem.read 0
      | .fault _ => []
      | .refused _ => []) = [7, 1] ∧
    actOn 1 (.host (.run none none)) [running [1105, 1, 0] [] .queued, construct [99] [] .queued] =
      .refused .anotherInstanceRuns := ⟨by decide, rfl⟩
/-- P1's assembly (R87, R88). -/
theorem test_assemble_countdown :
    assemble [.label "loop", .instr .out [.cell (.label "n")],
      .instr .add [.cell (.label "n"), .literal (.num (-1)), .cell (.label "n")],
      .instr .jt [.cell (.label "n"), .literal (.label "loop")], .instr .hlt [], .label "n", .data [.num 3]] =
    some [4, 10, 1001, 10, -1, 10, 1005, 10, 0, 99, 3] := by decide
/-- From reset the machine rests; the word the host places is the next instruction run. -/
theorem test_placed_word_runs : nextOf (step (State.reset.withFetchWord 8 99)) =
    some { State.reset with mem := [(0, 99)], status := .halted, ip := 1 } ∧ nextOf (step State.reset) = some State.reset := by
  decide

/-! ## Witnesses: concrete states and operands that meet the hypotheses of the statements -/

def sMul : State := running [1002, 4, 3, 4, 33] [] .queued
def sRel : State := { running [] [] .queued with rb := 10, mem := [(3, 30), (7, 70), (15, 150)] }
def sFaulted : State := (running [] [] .queued).raiseFault .invalidOpcode 0
def sIn : State := running [3, 3, 99, 0] [42] .queued
def sDefault : State := running [3, 3, 99, 0] [] (.defaulted (-1))
def sQueued : State := running [3, 3, 99, 0] [] .queued
def sHold : State := running [3, 3, 99, 0] [] .interactive
def sThree : State := construct [104, 11, 104, 22, 104, 33, 99] [] .queued

theorem witness_StepRunsTheDecodedInstruction :
    sMul.active = true ∧ sMul.maxOut ≠ some sMul.outCount ∧ 0 ≤ sMul.ip ∧ holdsFrom sMul.mem sMul.ip.toNat [1002, 4, 3, 4] ∧
      decode [1002, 4, 3, 4] = .ok (.mul (pos 4) (imm 3) (pos 4), []) :=
  ⟨by decide, by decide, by decide, ⟨by decide, by decide, by decide, by decide, trivial⟩, by decide⟩

/-- With an ill-formed term: the cells of ADD with an immediate destination. -/
theorem witness_StepRunsTheEncodedInstruction :
    (running [10001, 0, 0, 0] [] .queued).active = true ∧
      (running [10001, 0, 0, 0] [] .queued).maxOut ≠ some (running [10001, 0, 0, 0] [] .queued).outCount ∧
      0 ≤ (running [10001, 0, 0, 0] [] .queued).ip ∧
      holdsFrom (running [10001, 0, 0, 0] [] .queued).mem 0 (encode (.add (pos 0) (pos 0) (imm 0))) ∧
      holdsFrom sMul.mem sMul.ip.toNat (encode (.mul (pos 4) (imm 3) (pos 4))) :=
  ⟨by decide, by decide, by decide, ⟨by decide, by decide, by decide, by decide, trivial⟩,
    ⟨by decide, by decide, by decide, by decide, trivial⟩⟩

/-- A state for each clause: at the limit 0, at IP -1, at the words 0 and 301, at rest, at rest and faulted. -/
theorem witness_StepChecksInTheOrderOfTheCycle :
    ((sThree.startRun (some 0) none).active = true ∧ (sThree.startRun (some 0) none).maxOut = some 0 ∧
      (sThree.startRun (some 0) none).outCount = 0) ∧
    (((sMul.jumpTo (-1)).active = true ∧ (sMul.jumpTo (-1)).maxOut ≠ some (sMul.jumpTo (-1)).outCount) ∧
      (sMul.jumpTo (-1)).ip < 0) ∧
    ((running [] [] .queued).active = true ∧ 0 ≤ (running [] [] .queued).ip ∧
      decodeHeader ((running [] [] .queued).mem.read 0) = .error (.invalidOpcode 0)) ∧
    ((running [301] [] .queued).active = true ∧ 0 ≤ (running [301] [] .queued).ip ∧
      decodeHeader ((running [301] [] .queued).mem.read 0) = .error (.invalidMode 301)) ∧
    (State.reset.active = false ∧ State.reset.fault = none) ∧
    (sFaulted.active = false ∧ sFaulted.fault = some ⟨.invalidOpcode, 0, 0⟩) := by decide

theorem witness_DecodeAfterEncodeIsTheInstruction : (Instr.eq (imm (-5)) (rel 7) (rel (-1))).wellFormed = true := by decide

theorem witness_EncodeAfterDecodeIsTheCells : decode [203, 4, 99] = .ok (.inp (rel 4), [99]) := by decide

/-- Both sides of the equivalence hold at the largest legal word. -/
theorem witness_LegalWordsAreThoseListed : (∃ h, decodeHeader 22208 = .ok h) := ⟨_, rfl⟩

/-- Each clause at a boundary: -1, 100000, an opcode just outside the table, and a refused mode digit. -/
theorem witness_RefusedWordsNameTheirCause :
    decodeHeader (-1) = .error (.invalidOpcode (-1)) ∧ decodeHeader 100000 = .error (.invalidOpcode 100000) ∧
      decodeHeader 10 = .error (.invalidOpcode 10) ∧ decodeHeader 301 = .error (.invalidMode 301) := by decide

theorem witness_IgnorePolicyReadsUnusedDigitsAsZero :
    ((1 : Nat) ≤ 9 ∧ (9 : Nat) ≤ 9 ∧ (0 : Nat) ≤ 9) ∧ decodeHeader 104 = .ok ⟨.out, .immediate, .position, .position⟩ := by
  decide

theorem witness_WriteChangesItsCellAlone : Memory.wf [(3, 30), (7, 70)] = true ∧ (4 : Nat) ≠ 3 := by decide

theorem witness_MemoriesThatReadAlikeAreEqual :
    Memory.wf [(3, 30)] = true ∧ ∀ a, Memory.read [(3, 30)] a = Memory.read (Memory.write [] 3 30) a :=
  ⟨by decide, fun _ => rfl⟩

/-- 95_test_vectors.md 2.2: each clause at its boundary. -/
theorem witness_ReadParametersResolveByMode :
    ((-1 : Int) < 0) ∧ (0 : Int) ≤ 0 ∧ sRel.rb + (-11) < 0 ∧ 0 ≤ sRel.rb + (-10) ∧
      resolveRead sRel (rel 5) = .ok 150 ∧ resolveRead sRel (rel (-3)) = .ok 70 ∧ resolveRead sRel (pos 3) = .ok 30 ∧
      resolveRead sRel (rel (-11)) = .error (-1) := by decide

theorem witness_WriteParametersResolveByMode :
    ((-1 : Int) < 0) ∧ (0 : Int) ≤ 0 ∧ sRel.rb + (-11) < 0 ∧ 0 ≤ sRel.rb + (-10) ∧
      resolveWrite sRel (rel (-10)) = .ok 0 ∧ resolveWrite sRel (pos (-2)) = .error (-2) ∧
      (Instr.inp (imm 3)).wellFormed = false := by decide

/-- For AddStoresTheExactSum, MulStoresTheExactProduct, LtStoresOneOrZero and EqStoresOneOrZero, clause by clause: the effect
and the decoding; a refused mode digit in each place; an immediate destination; a negative parameter 1, 2, 3. -/
theorem witness_ThreeParameterRule :
    ((rel 5).mode ≠ .immediate ∧ resolveRead sRel (pos 3) = .ok 30 ∧ resolveRead sRel (imm (-5)) = .ok (-5) ∧
      resolveWrite sRel (rel 5) = .ok 15) ∧
    ((3 : Nat) ≤ 9 ∧ (1 : Nat) ≤ 9 ∧ ((1 : Nat) = 1 ∨ 2 < (3 : Nat))) ∧
    (imm 5).mode = .immediate ∧
    resolveRead sRel (pos (-1)) = .error (-1) ∧
    (resolveRead sRel (pos 3) = .ok 30 ∧ resolveRead sRel (rel (-11)) = .error (-1)) ∧
    (resolveRead sRel (pos 3) = .ok 30 ∧ resolveRead sRel (rel 5) = .ok 150 ∧ (pos (-3)).mode ≠ .immediate ∧
      resolveWrite sRel (pos (-3)) = .error (-3)) := by decide

/-- For OutAppendsItsValue and ArbAddsToTheRelativeBase: the effect, a refused digit, a negative address; OUT at its limit; a
step that changes RB. -/
theorem witness_OneReadParameterRule :
    resolveRead sRel (rel 5) = .ok 150 ∧ ((3 : Nat) ≤ 9 ∧ 2 < (3 : Nat)) ∧ resolveRead sRel (rel (-11)) = .error (-1) ∧
    ((sThree.startRun (some 1) none).active = true ∧
      (sThree.startRun (some 1) none).maxOut = some ((sThree.startRun (some 1) none).outCount + 1) ∧
      resolveRead (sThree.startRun (some 1) none) (imm 11) = .ok 11) ∧
    exec (.arb (imm 5)) sRel = .next ((sRel.adjustBase 5).advance 2) ∧ ((sRel.adjustBase 5).advance 2).rb ≠ sRel.rb :=
  ⟨by decide, by decide, by decide, by decide, rfl, by decide⟩

/-- For JtJumpsUnlessZero and JfJumpsOnZero: a condition that is 0 and one that is not, each with a target; a negative target
inside a run; a refused digit; a negative address of either parameter. -/
theorem witness_JumpRule :
    (resolveRead sRel (imm 0) = .ok 0 ∧ resolveRead sRel (imm (-3)) = .ok (-3) ∧ resolveRead sRel (pos 7) = .ok 70) ∧
    (resolveRead sRel (imm (-1)) = .ok (-1) ∧ (-1 : Int) < 0 ∧ sRel.active = true ∧ sRel.maxOut ≠ some sRel.outCount) ∧
    ((1 : Nat) ≤ 9 ∧ (1 : Nat) ≠ 0) ∧ resolveRead sRel (pos (-1)) = .error (-1) ∧
    resolveRead sRel (rel (-11)) = .error (-1) := by decide

theorem witness_HltHaltsTheMachine : (1 : Nat) ≤ 9 ∧ (0 : Nat) ≤ 9 ∧ ((1 : Nat) ≠ 0 ∨ (0 : Nat) ≠ 0) := by decide

theorem witness_InTakesTheOldestQueuedValue :
    (pos 3).mode ≠ .immediate ∧ resolveWrite sIn (pos 3) = .ok 3 ∧ sIn.maxIn ≠ some sIn.inCount ∧ sIn.inq = 42 :: [] := by
  decide

theorem witness_InTakesTheDefaultAndIsIdle :
    (pos 3).mode ≠ .immediate ∧ resolveWrite sDefault (pos 3) = .ok 3 ∧ sDefault.maxIn ≠ some sDefault.inCount ∧
      sDefault.inq = [] ∧ sDefault.inputMode = .defaulted (-1) := by decide

/-- For InOnAnEmptyQueuedQueueIsFatal and the first part of OnlyInRaisesInputExhausted. -/
theorem witness_InOnAnEmptyQueuedQueueIsFatal :
    (pos 3).mode ≠ .immediate ∧ resolveWrite sQueued (pos 3) = .ok 3 ∧ sQueued.maxIn ≠ some sQueued.inCount ∧
      sQueued.inq = [] ∧ sQueued.inputMode = .queued := by decide

theorem witness_OnlyInRaisesInputExhausted :
    exec (.inp (pos 3)) sQueued = .next (sQueued.raiseFault .inputExhausted 0) ∧ sQueued.fault = none ∧
      (sQueued.raiseFault .inputExhausted 0).fault = some ⟨.inputExhausted, 0, 0⟩ := ⟨rfl, by decide, by decide⟩

/-- With the limit 0 and a queue that holds a value. -/
theorem witness_InPausesAtTheLimitBeforeTheQueue :
    ((pos 3).mode ≠ .immediate ∧ resolveWrite { sIn with maxIn := some 0 } (pos 3) = .ok 3 ∧
      ({ sIn with maxIn := some 0 } : State).maxIn = some sIn.inCount) ∧
    resolveWrite sIn (pos (-1)) = .error (-1) ∧ (imm 3).mode = .immediate := by decide

theorem witness_HoldLastsUntilTheHostSuppliesAValue : holding sHold = true ∧ sHold.mem.wf = true := by decide

theorem witness_FrameOfTheStoringInstructions :
    sRel.mem.wf = true ∧ exec (.add (pos 3) (pos 7) (rel 5)) sRel = .next ((sRel.storeCell 15 100).advance 4) ∧
      resolveWrite sRel (rel 5) = .ok 15 ∧ (14 : Nat) ≠ 15 := ⟨by decide, rfl, by decide, by decide⟩

theorem witness_FrameOfTheInputInstruction :
    sIn.mem.wf = true ∧ exec (.inp (pos 3)) sIn = .next ((((sIn.takeQueued []).storeCell 3 42).countInput).advance 2) :=
  ⟨by decide, rfl⟩

theorem witness_FrameOfTheInstructionsThatStoreNothing :
    exec (.jt (imm 1) (imm 4)) sRel = .next (sRel.jumpTo 4) ∧ exec .hlt sRel = .next (sRel.halt.advance 1) := ⟨rfl, rfl⟩

theorem witness_FaultsArePrecise :
    step (running [] [] .queued) = .next sFaulted ∧ (running [] [] .queued).status ≠ .faulted ∧ sFaulted.status = .faulted :=
  ⟨rfl, by decide, by decide⟩

theorem witness_FaultedInstanceAnswersOnlyItsFault :
    sFaulted.active = false ∧ sFaulted.status = .faulted ∧ sFaulted.fault = some ⟨.invalidOpcode, 0, 0⟩ := by decide

/-- A move for each clause: a store by MUL and by the host, ARB, IN and `add_input`, OUT, the default input, `run`. -/
theorem witness_StateIsWrittenOnlyByItsWriters :
    (∃ t, Event.engine.act sMul = .next t ∧ t.mem ≠ sMul.mem) ∧
    (∃ t, (Event.host (.memoryWrite 1 4)).act sThree = .next t ∧ t.mem ≠ sThree.mem ∧
      (Event.host (.memoryWrite 1 4)).isNew = false) ∧
    (∃ t, Event.engine.act (running [109, 5] [] .queued) = .next t ∧ t.rb ≠ 0) ∧
    (∃ t, Event.engine.act sIn = .next t ∧ t.inq ≠ sIn.inq ∧ t.inCount ≠ sIn.inCount) ∧
    (∃ t, (Event.host (.addInput 7)).act sThree = .next t ∧ t.inq ≠ sThree.inq) ∧
    (∃ t, Event.engine.act (sThree.startRun none none) = .next t ∧ t.out ≠ [] ∧ t.outCount ≠ 0) ∧
    (∃ t, Event.engine.act sDefault = .next t ∧ t.idle ≠ sDefault.idle) ∧
    (∃ t, (Event.host (.run (some 1) none)).act sThree = .next t ∧ t.maxOut ≠ sThree.maxOut) :=
  ⟨⟨_, rfl, by decide⟩, ⟨_, rfl, by decide, rfl⟩, ⟨_, rfl, by decide⟩, ⟨_, rfl, by decide, by decide⟩, ⟨_, rfl, by decide⟩,
    ⟨_, rfl, by decide, by decide⟩, ⟨_, rfl, by decide⟩, ⟨_, rfl, by decide⟩⟩

/-- An input taken from the default, and an instruction that takes none. -/
theorem witness_IdleTellsHowTheLastInputCame :
    (∃ t, exec (.inp (pos 3)) sDefault = .next t ∧ t.inCount = sDefault.inCount + 1 ∧ sDefault.inq = []) ∧
    (∃ t, exec .hlt sDefault = .next t ∧ t.inCount ≠ sDefault.inCount + 1) :=
  ⟨⟨_, rfl, by decide, by decide⟩, ⟨_, rfl, by decide⟩⟩

theorem witness_OutputLogOnlyGrows :
    (∀ e ∈ [Event.host (.run none none), Event.engine, Event.engine], e.isNew = false) ∧
      ∃ t, session [.host (.run none none), .engine, .engine] sThree = .next t ∧ t.out = [11, 22] :=
  ⟨by decide, _, rfl, by decide⟩

/-- A halted instance whose queue the host extends and whose run it asks for again, and a faulted one. -/
theorem witness_TerminalStatusesAreNeverLeft :
    (∃ s t, session [.host (.addInput 1), .host (.run none none), .engine] s = .next t ∧ s.active = false ∧
      s.status = .halted ∧ s.fault = none) ∧
    (∃ t, session [.host .status, .host (.run none none)] sFaulted = .next t) :=
  ⟨⟨(running [99] [] .queued).halt.advance 1, _, rfl, by decide, by decide, by decide⟩, ⟨_, rfl⟩⟩

/-- Moves from a state with the invariant: an engine step inside a run, one at rest, a host operation. -/
theorem witness_StatusMovesAlongTheDiagram :
    sIn.Inv ∧ sIn.active = true ∧ (∃ t, Event.engine.act sIn = .next t) ∧
    sThree.Inv ∧ sThree.active = false ∧ (∃ t, Event.engine.act sThree = .next t) ∧
    (∃ t, (Event.host (.run none none)).act sThree = .next t) :=
  ⟨by decide, by decide, ⟨_, rfl⟩, by decide, by decide, ⟨_, rfl⟩, ⟨_, rfl⟩⟩

theorem witness_StepKeepsTheInvariant : sMul.Inv ∧ ∃ t, step sMul = .next t := ⟨by decide, _, rfl⟩

theorem witness_HostOperationsKeepTheInvariant :
    sThree.Inv ∧ ∃ t r, perform (.run (some 1) none) sThree = .next (t, r) := ⟨by decide, _, _, rfl⟩

/-- A state three moves from its construction. -/
theorem witness_ReachableStatesMeetTheInvariant : ∃ t, Reachable t ∧ t.out = [11] :=
  ⟨((sThree.startRun none none).appendOutput 11).advance 2,
    .moved (sThree.startRun none none) _ .engine
      (.moved sThree _ (.host (.run none none)) (.constructed _ _ _) rfl) rfl, by decide⟩

/-- Two runs that differ in their limits and counts. -/
theorem witness_RunBookkeepingIsInvisibleToTheProgram :
    SameProgramState sMul { sMul with maxOut := some 5, outCount := 3, inCount := 1 } ∧ sMul.active = true ∧
      sMul.status = .running ∧
      (∃ s', step sMul = .next s' ∧ s'.status ≠ .pausedOnOutputCount ∧ s'.status ≠ .pausedOnInputCount) ∧
      (∃ t', step { sMul with maxOut := some 5, outCount := 3, inCount := 1 } = .next t' ∧
        t'.status ≠ .pausedOnOutputCount ∧ t'.status ≠ .pausedOnInputCount) :=
  ⟨by decide, by decide, by decide, ⟨_, rfl, by decide, by decide⟩, ⟨_, rfl, by decide, by decide⟩⟩

/-- T7's program paused after its first output, then run to its end. -/
theorem witness_PausedRunContinuesAsIfUninterrupted :
    sThree.Inv ∧ sThree.active = false ∧ sThree.status ≠ .halted ∧ sThree.status ≠ .faulted ∧
      ∃ p, runCycles 2 (sThree.startRun (some 1) none) = some p ∧ p.status = .pausedOnOutputCount ∧
        ∃ u, runCycles 3 (p.startRun none none) = some u ∧ u.out = [11, 22, 33] :=
  ⟨by decide, by decide, by decide, by decide, _, rfl, by decide, _, rfl, by decide⟩

theorem witness_OutputPauseMeansExactlyTheLimit :
    ∃ t, runTransaction 2 (some 1) none sThree = some (t, .pausedOnOutputCount) := ⟨_, rfl⟩

theorem witness_InputPauseStandsAtTheNextInput :
    ∃ t, runTransaction 1 none (some 0) (construct [3, 5] [] .queued) = some (t, .pausedOnInputCount) := ⟨_, rfl⟩

theorem witness_EndedRunHasAResult :
    (sQueued.Inv ∧ sQueued.active = true ∧ ∃ t, runCycles 1 sQueued = some t) ∧
      ∃ t, runTransaction 4 none none sThree = some (t, .halted) := ⟨⟨by decide, by decide, _, rfl⟩, _, rfl⟩

theorem witness_RunStartsTheEngine :
    sThree.active = false ∧ sThree.status = .running ∧
      (sThree.pause .pausedOnOutputCount).status = .pausedOnOutputCount ∧
      (sThree.pause .pausedOnInputCount).status = .pausedOnInputCount := by decide

theorem witness_RunOnAHaltedInstanceOrWithANegativeLimit :
    (sThree.halt.active = false ∧ sThree.halt.status = .halted) ∧ (sThree.active = false ∧ (-1 : Int) < 0) := by decide

/-- For OutputLogReturnsTheWholeHistory and the other operations at rest on an instance that is not Faulted. -/
theorem witness_HostOperationsAtRest :
    sThree.active = false ∧ sThree.status ≠ .faulted ∧ sThree.status ≠ .halted ∧
      ∃ t, runTransaction 2 (some 1) none sThree = some (t, .pausedOnOutputCount) ∧ t.out = [11] :=
  ⟨by decide, by decide, by decide, _, rfl, by decide⟩

/-- Both clauses at their boundary. -/
theorem witness_HostReadsAndWritesOneCell :
    sThree.active = false ∧ sThree.status ≠ .faulted ∧ (0 : Int) ≤ 0 ∧ (-1 : Int) < 0 := by decide

/-- One output, several, none, and a front with an entry that is not 0. -/
theorem witness_DiagnosticChecksAllButTheLastOutput :
    (∀ v : Int, [v] = [] ++ [v]) ∧ (∀ z ∈ ([0, 0, 0] : List Int), z = 0) ∧ State.reset.out = [] ∧
      ∃ z ∈ ([0, 1] : List Int), z ≠ 0 := ⟨fun _ => rfl, by decide, rfl, 1, by decide, by decide⟩

theorem witness_HostActsOnlyAtRest :
    sMul.active = true ∧ holding sMul = false ∧ sHold.active = true ∧ holding sHold = true ∧
      (∀ x, HostOp.memoryWrite 0 7 ≠ .addInput x) ∧ ∀ xs, HostOp.memoryWrite 0 7 ≠ .addInputs xs :=
  ⟨by decide, by decide, by decide, by decide, nofun, nofun⟩

theorem witness_AtRestForNewAndTheAccessors : State.reset.active = false ∧ sFaulted.active = false := by decide

/-- Two instances: the second is patched while the first is inside a run; its own `run` is refused then; at rest both
may run; a list of moves that runs one after the other, with `new` of a third between. -/
theorem witness_InstancesAreIsolated :
    (∃ ys, actOn 1 (.host (.memoryWrite 0 7)) [sMul, sThree] = .next ys ∧ (0 : Nat) ≠ 1) ∧
    ([sMul, sThree][1]? = some sThree ∧ [sMul, sThree][0]? = some sMul ∧ sMul.active = true) ∧
    (∃ t, (Event.host (.run none none)).act sThree = .next t) ∧ (∀ j u, j ≠ 0 → [sThree][j]? = some u → u.active = false) ∧
    OneRunAtATime [sMul, sThree] ∧
    ∃ ys, systemSession [.move 0 .engine, .move 0 .engine, .create [99] [] none true, .move 1 (.host (.run (some 1) none)),
      .move 1 .engine] [sMul, sThree] = .next ys ∧ ys.map State.active = [false, true, false] := by
  refine ⟨⟨_, rfl, by decide⟩, ⟨rfl, rfl, rfl⟩, ⟨_, rfl⟩, ?_, ?_, _, rfl, by decide⟩
  · rintro (_ | j) u hj h
    · exact absurd rfl hj
    · cases h
  · rintro (_ | _ | j) (_ | _ | k) s t hs ht hsa hta <;> cases hs <;> cases ht <;>
    first | rfl | exact absurd hsa (by decide) | exact absurd hta (by decide)

theorem witness_PlacedWordIsTheNextInstructionRun :
    sFaulted.mem.wf = true ∧ decodeTableWord 16 1206 = some (.jf (rel 0) (imm 0)) := by decide

end Sys2Proof.Tests
end

/-! ## Reads after writes (R51, R52) -/

namespace Sys2Proof.Machine

@[simp] theorem Memory.read_nil (a : Nat) : Memory.read [] a = 0 := rfl

@[simp] theorem Memory.read_cons (b : Nat) (w : Int) (m : Memory) (a : Nat) :
    Memory.read ((b, w) :: m) a = if a = b then w else m.read a := rfl

/-- The canonical form of a listed cell and the rest, as propositions. -/
theorem Memory.wfFrom_cons_iff {lo b : Nat} {w : Int} {m : Memory} :
    Memory.wfFrom lo ((b, w) :: m) = true ↔ lo ≤ b ∧ w ≠ 0 ∧ m.wfFrom (b + 1) = true := by
  simp [Memory.wfFrom, and_assoc]

/-- A memory in canonical form from `lo` on lists no cell below `lo`: such a cell reads 0. -/
theorem Memory.read_eq_zero_of_lt {a : Nat} : ∀ {m : Memory} {lo : Nat}, m.wfFrom lo = true → a < lo → m.read a = 0
  | [], _, _, _ => rfl
  | (b, w) :: m, lo, hm, ha => by
    obtain ⟨hb, -, ht⟩ := Memory.wfFrom_cons_iff.1 hm
    have hab : a < b := ha.trans_le hb
    have ih : Memory.read m a = 0 := Memory.read_eq_zero_of_lt ht (Nat.lt_succ_of_lt hab)
    simp [hab.ne, ih]

/-- What a read returns after a write. A write of 0 drops the entry or adds none, and the cell then reads 0 because the
canonical form lists no other entry for it. -/
theorem Memory.read_write_of_wfFrom (a : Nat) (v : Int) (c : Nat) :
    ∀ {m : Memory} {lo : Nat}, m.wfFrom lo = true → (m.write a v).read c = if c = a then v else m.read c
  | [], _, _ => by
    by_cases hv : v = 0 <;> simp [Memory.write, hv]
  | (b, w) :: m, lo, hm => by
    obtain ⟨-, hw, ht⟩ := Memory.wfFrom_cons_iff.1 hm
    rcases lt_trichotomy a b with hab | rfl | hab
    · by_cases hv : v = 0
      · have hself : Memory.wfFrom b ((b, w) :: m) = true := Memory.wfFrom_cons_iff.2 ⟨le_rfl, hw, ht⟩
        have hunset : Memory.read ((b, w) :: m) a = 0 := Memory.read_eq_zero_of_lt hself hab
        by_cases hc : c = a
        · simpa [Memory.write, hab, hv, hc] using hunset
        · simp [Memory.write, hab, hv, hc]
      · simp [Memory.write, hab, hv]
    · by_cases hv : v = 0
      · have hunset : Memory.read m a = 0 := Memory.read_eq_zero_of_lt ht a.lt_succ_self
        by_cases hc : c = a <;> simp [Memory.write, hv, hc, hunset]
      · by_cases hc : c = a <;> simp [Memory.write, hv, hc]
    · have ih : (Memory.write m a v).read c = if c = a then v else Memory.read m c :=
        Memory.read_write_of_wfFrom a v c ht
      have hkeep : Memory.write ((b, w) :: m) a v = (b, w) :: Memory.write m a v := by
        simp [Memory.write, hab.not_gt, hab.ne']
      by_cases hc : c = b
      · simp [hkeep, hc, hab.ne]
      · simp [hkeep, hc, ih]

/-- A read of the written cell returns the value (R52). -/
theorem Memory.read_write_same {m : Memory} (h : m.wf = true) (a : Nat) (v : Int) : (m.write a v).read a = v := by
  simp [Memory.read_write_of_wfFrom a v a h]

/-- A read of any other cell returns what it returned before the write (R52). -/
theorem Memory.read_write_of_ne {m : Memory} (h : m.wf = true) {a c : Nat} (v : Int) (hc : c ≠ a) :
    (m.write a v).read c = m.read c := by
  simp [Memory.read_write_of_wfFrom a v c h, hc]

/-- Settles O10: both halves are the law of reads after writes, at the written address and at another. -/
theorem writeChangesItsCellAlone : Obligations.WriteChangesItsCellAlone :=
  fun _ a v hm => ⟨Memory.read_write_same hm a v, fun _ hc => Memory.read_write_of_ne hm v hc⟩

end Sys2Proof.Machine

/-! ## The value of a read parameter (R106, R108): one equation per outcome, in terms of its effective address -/

namespace Sys2Proof.Machine

/-- A read parameter without an effective address, an immediate one, is its own word, never checked. -/
theorem resolveRead_of_no_address {s : State} {p : Param} (h : effectiveAddress s p = none) : resolveRead s p = .ok p.word := by
  simp [resolveRead, h]

/-- A read parameter that passes the sign check is the cell at its effective address. -/
theorem resolveRead_of_nonneg {s : State} {p : Param} {a : Int} (h : effectiveAddress s p = some a) (ha : 0 ≤ a) :
    resolveRead s p = .ok (s.mem.read a.toNat) := by
  have hcheck : checkAddress a = .ok a.toNat := checkAddress_ok.2 ⟨ha, rfl⟩
  simp [resolveRead, h, hcheck]

/-- A read parameter whose effective address is negative names that address. -/
theorem resolveRead_of_neg {s : State} {p : Param} {a : Int} (h : effectiveAddress s p = some a) (ha : a < 0) :
    resolveRead s p = .error a := by
  have hcheck : checkAddress a = .error a := checkAddress_error.2 ⟨ha, rfl⟩
  simp [resolveRead, h, hcheck]

/-- Settles O13: each mode fixes the effective address (`p`, none, `RB + p`), and the equation for that address's outcome gives
the clause. -/
theorem readParametersResolveByMode : Obligations.ReadParametersResolveByMode := by
  intro s p
  have hpos : effectiveAddress s ⟨.position, p⟩ = some p := rfl
  have himm : effectiveAddress s ⟨.immediate, p⟩ = none := rfl
  have hrel : effectiveAddress s ⟨.relative, p⟩ = some (s.rb + p) := rfl
  exact ⟨resolveRead_of_neg hpos, resolveRead_of_nonneg hpos, resolveRead_of_no_address himm, resolveRead_of_neg hrel,
    resolveRead_of_nonneg hrel⟩

end Sys2Proof.Machine

/-! ## The decoder on a number written from its digits (R71, R103, R104), and on the cells of an instruction (R70, R87) -/

namespace Sys2Proof

theorem Opcode.code_lt_hundred (op : Opcode) : op.code < 100 := by cases op <;> decide

/-- The split of a number written from an opcode and three digits gives them back. -/
theorem splitWord_wordOfDigits (op : Opcode) {m1 m2 m3 : Nat} (h1 : m1 ≤ 9) (h2 : m2 ≤ 9) (h3 : m3 ≤ 9) :
    splitWord (wordOfDigits m1 m2 m3 op.code) = .ok ⟨op, m1, m2, m3⟩ := by
  have hcode := op.code_lt_hundred
  have hnat : (wordOfDigits m1 m2 m3 op.code).toNat = 10000 * m3 + 1000 * m2 + 100 * m1 + op.code := rfl
  have hrange : 0 ≤ wordOfDigits m1 m2 m3 op.code ∧ wordOfDigits m1 m2 m3 op.code < 100000 := by
    simp only [wordOfDigits, Int.ofNat_eq_natCast]
    omega
  refine splitWord_ok.2 ⟨hrange.1, hrange.2, ?_⟩
  simp only [hnat, digit]
  omega

/-- A digit that names no mode at its position refuses the word (R104). -/
theorem checkModes_of_none {policy : UnusedModePolicy} {w : Int} {f : Fields}
    (h : modeOf policy f.op.kinds[0]? f.m1 = none ∨ modeOf policy f.op.kinds[1]? f.m2 = none ∨
      modeOf policy f.op.kinds[2]? f.m3 = none) :
    checkModes policy w f = .error (.invalidMode w) := by
  cases hc : checkModes policy w f with
  | error e => rw [checkModes_error hc]
  | ok hd =>
    obtain ⟨-, h1, h2, h3⟩ := checkModes_ok.1 hc
    simp [h1, h2, h3] at h

/-- `decodeHeader` of a number written from an opcode and three digits is the check of those digits (R103, R104). -/
theorem decodeHeader_wordOfDigits (op : Opcode) {m1 m2 m3 : Nat} (h1 : m1 ≤ 9) (h2 : m2 ≤ 9) (h3 : m3 ≤ 9) :
    decodeHeader (wordOfDigits m1 m2 m3 op.code) =
      checkModes .fault (wordOfDigits m1 m2 m3 op.code) ⟨op, m1, m2, m3⟩ := by
  simp [decodeHeader, decodeHeaderWith, Config.unusedModePolicy, splitWord_wordOfDigits op h1 h2 h3]

/-- A read parameter takes no digit above 2 (R78; decision D7). -/
theorem modeOf_read_of_two_lt {policy : UnusedModePolicy} : ∀ {n : Nat}, 2 < n → modeOf policy (some .read) n = none
  | _ + 3, _ => rfl

/-- A write parameter takes neither the digit 1 nor a digit above 2 (R79; decisions D7 and D8). -/
theorem modeOf_write_of_one_or_two_lt {policy : UnusedModePolicy} :
    ∀ {n : Nat}, n = 1 ∨ 2 < n → modeOf policy (some .write) n = none
  | 1, _ => rfl
  | _ + 3, _ => rfl

/-- The digit of a parameter's mode names that mode again, where the mode is legal for the parameter's kind (R75). -/
theorem modeOf_digit_of_legalFor {policy : UnusedModePolicy} {p : Param} {k : Kind} (h : p.legalFor k = true) :
    modeOf policy (some k) p.mode.digit = some p.mode := by
  obtain ⟨mode, word⟩ := p
  cases k <;> cases mode
  case write.immediate => cases h
  all_goals rfl

/-- The mode of parameter position `k` (0 for parameter 1), `position` where the instruction has no such parameter. -/
def Instr.modeAt (i : Instr) (k : Nat) : Mode := (i.params[k]?.map Param.mode).getD .position

theorem Instr.modeDigit_eq (i : Instr) (k : Nat) : i.modeDigit k = (i.modeAt k).digit := by
  unfold Instr.modeDigit Instr.modeAt
  cases i.params[k]? <;> rfl

/-- The instruction word is written from the digits of the modes and the opcode (R71). -/
theorem Instr.headWord_eq (i : Instr) :
    i.headWord = wordOfDigits (i.modeAt 0).digit (i.modeAt 1).digit (i.modeAt 2).digit i.opcode.code := by
  simp only [← Instr.modeDigit_eq]
  rfl

/-- The header the decoder reads from the instruction word of a well-formed instruction. -/
def Instr.header (i : Instr) : Header := ⟨i.opcode, i.modeAt 0, i.modeAt 1, i.modeAt 2⟩

@[simp] theorem Instr.header_op (i : Instr) : i.header.op = i.opcode := rfl

/-- An instruction is made of its header and its parameter words (R70). -/
theorem Instr.assemble_header (i : Instr) : i.header.assemble (i.params.map Param.word) = i := by cases i <;> rfl

theorem Instr.length_params (i : Instr) : i.params.length = i.opcode.nparams := by cases i <;> rfl

/-- A well-formed instruction's parameters are legal for the kinds at their positions (R73, R75). -/
theorem Instr.legalFor_of_mem_zip {i : Instr} (h : i.wellFormed = true) :
    ∀ x ∈ i.params.zip i.opcode.kinds, x.1.legalFor x.2 = true := by
  cases i <;> simp_all [Instr.params, Instr.opcode, Opcode.kinds, Instr.wellFormed, Param.legalFor]

/-- Each digit of a well-formed instruction's word names the mode at its position, used or unused. -/
theorem Instr.modeOf_modeAt {policy : UnusedModePolicy} {i : Instr} (h : i.wellFormed = true) {k : Nat} :
    modeOf policy i.opcode.kinds[k]? (i.modeAt k).digit = some (i.modeAt k) := by
  have hlen : i.params.length = i.opcode.kinds.length := i.length_params
  by_cases hk : k < i.opcode.kinds.length
  · have hp : k < i.params.length := hlen ▸ hk
    have hmem : (i.params[k], i.opcode.kinds[k]) ∈ i.params.zip i.opcode.kinds :=
      List.mem_of_getElem? (List.getElem?_zip_eq_some.2 ⟨List.getElem?_eq_getElem hp, List.getElem?_eq_getElem hk⟩)
    have hlegal : i.params[k].legalFor i.opcode.kinds[k] = true := Instr.legalFor_of_mem_zip h _ hmem
    simpa [Instr.modeAt, hp, hk] using modeOf_digit_of_legalFor hlegal
  · have hunused : i.modeAt k = .position := by simp [Instr.modeAt, hlen, hk]
    simp [hunused, hk, Mode.digit, modeOf]

theorem decodeHeader_headWord {i : Instr} (h : i.wellFormed = true) : decodeHeader i.headWord = .ok i.header := by
  have hdigit (k : Nat) : (i.modeAt k).digit ≤ 9 := (Laws.HeadWordRange.digit_le_two _).trans (by decide)
  rw [Instr.headWord_eq, decodeHeader_wordOfDigits _ (hdigit 0) (hdigit 1) (hdigit 2), checkModes_ok]
  exact ⟨rfl, Instr.modeOf_modeAt h, Instr.modeOf_modeAt h, Instr.modeOf_modeAt h⟩

/-- The cells after an accepted instruction word: as many as its opcode takes are its parameter words (R70, R84). -/
theorem decode_cons_append {w : Int} {hd : Header} (h : decodeHeader w = .ok hd) {ps : List Int}
    (hlen : ps.length = hd.op.nparams) (rest : List Int) :
    decode (w :: (ps ++ rest)) = .ok (hd.assemble ps, rest) := by
  have hword : decodeHeaderWith Config.unusedModePolicy w = .ok hd := h
  simp [decode, decodeWith, hword, ← hlen]

/-- The cells of a well-formed instruction decode to it, whatever follows them (R70, R103). -/
theorem decode_encode_append {i : Instr} (h : i.wellFormed = true) (rest : List Int) :
    decode (encode i ++ rest) = .ok (i, rest) := by
  have hlen : (i.params.map Param.word).length = i.header.op.nparams := by simp [Instr.length_params]
  have hdecode := decode_cons_append (decodeHeader_headWord h) hlen rest
  rwa [Instr.assemble_header] at hdecode

end Sys2Proof

/-! ## The shared steps of a cycle (R104, R106 to R108): one equation per outcome -/

namespace Sys2Proof.Machine

theorem withLegalModes_of_wellFormed {i : Instr} {s : State} {k : Answer} (h : i.wellFormed = true) :
    withLegalModes i s k = k := by
  simp [withLegalModes, h]

theorem withLegalModes_of_not_wellFormed {i : Instr} {s : State} {k : Answer} (h : i.wellFormed = false) :
    withLegalModes i s k = .next (s.raiseFault .invalidMode i.headWord) := by
  simp [withLegalModes, h]

theorem withRead_of_ok {p : Param} {s : State} {k : Int → Answer} {v : Int} (h : resolveRead s p = .ok v) :
    withRead p s k = k v := by
  simp [withRead, h]

theorem withRead_of_error {p : Param} {s : State} {k : Int → Answer} {e : Int} (h : resolveRead s p = .error e) :
    withRead p s k = .next (s.raiseFault .negativeAddress e) := by
  simp [withRead, h]

theorem withDst_of_ok {p : Param} {s : State} {k : Nat → Answer} {d : Nat} (h : resolveWrite s p = .ok d) :
    withDst p s k = k d := by
  simp [withDst, h]

theorem withDst_of_error {p : Param} {s : State} {k : Nat → Answer} {e : Int} (h : resolveWrite s p = .error e) :
    withDst p s k = .next (s.raiseFault .negativeAddress e) := by
  simp [withDst, h]

end Sys2Proof.Machine

/-! ## The instructions of format F3: ADD, MUL, LT, EQ (R130 to R135) -/

namespace Sys2Proof.Machine

/-- What the four instructions of format F3 share: `mk` makes instructions of the opcode `op` whose parameters are two read
parameters and a destination, and whose meaning is the common course `storeResult` with the function `f`. -/
structure StoresResult (mk : Param → Param → Param → Instr) (op : Opcode) (f : Int → Int → Int) : Prop where
  opcode_eq : ∀ a b dst, (mk a b dst).opcode = op
  params_eq : ∀ a b dst, (mk a b dst).params = [a, b, dst]
  kinds_eq : op.kinds = [.read, .read, .write]
  wellFormed_eq : ∀ a b dst, (mk a b dst).wellFormed = dst.legalFor .write
  exec_eq : ∀ a b dst s, exec (mk a b dst) s = storeResult (mk a b dst) f a b dst s

/-- The result of a comparison is 1 or 0, as its test holds or fails. -/
theorem truth_decide (p : Prop) [Decidable p] : truth (decide p) = if p then 1 else 0 := by simp [truth]

theorem aluLt_eq : aluLt = fun x y => if x < y then 1 else 0 := by
  funext x y
  exact truth_decide _

theorem aluEq_eq : aluEq = fun x y => if x = y then 1 else 0 := by
  funext x y
  exact truth_decide _

theorem storesResult_add : StoresResult .add .add fun x y => x + y :=
  ⟨fun _ _ _ => rfl, fun _ _ _ => rfl, rfl, fun _ _ _ => rfl, fun _ _ _ _ => rfl⟩

theorem storesResult_mul : StoresResult .mul .mul fun x y => x * y :=
  ⟨fun _ _ _ => rfl, fun _ _ _ => rfl, rfl, fun _ _ _ => rfl, fun _ _ _ _ => rfl⟩

theorem storesResult_lt : StoresResult .lt .lt fun x y => if x < y then 1 else 0 :=
  aluLt_eq ▸ ⟨fun _ _ _ => rfl, fun _ _ _ => rfl, rfl, fun _ _ _ => rfl, fun _ _ _ _ => rfl⟩

theorem storesResult_eq : StoresResult .eq .eq fun x y => if x = y then 1 else 0 :=
  aluEq_eq ▸ ⟨fun _ _ _ => rfl, fun _ _ _ => rfl, rfl, fun _ _ _ => rfl, fun _ _ _ _ => rfl⟩

section

variable {mk : Param → Param → Param → Instr} {op : Opcode} {f : Int → Int → Int} (h : StoresResult mk op f)
include h

theorem StoresResult.encode_eq (a b dst : Param) :
    encode (mk a b dst) =
      [wordOfDigits a.mode.digit b.mode.digit dst.mode.digit op.code, a.word, b.word, dst.word] := by
  simp [encode, Instr.headWord_eq, Instr.modeAt, h.params_eq, h.opcode_eq]

theorem StoresResult.wellFormed_iff {a b dst : Param} : (mk a b dst).wellFormed = true ↔ dst.mode ≠ .immediate := by
  simp [h.wellFormed_eq, Param.legalFor]

theorem StoresResult.decodeHeader_of_illegal_digit {m1 m2 m3 : Nat} (h1 : m1 ≤ 9) (h2 : m2 ≤ 9) (h3 : m3 ≤ 9)
    (hbad : m3 = 1 ∨ 2 < m1 ∨ 2 < m2 ∨ 2 < m3) :
    decodeHeader (wordOfDigits m1 m2 m3 op.code) = .error (.invalidMode (wordOfDigits m1 m2 m3 op.code)) := by
  rw [decodeHeader_wordOfDigits op h1 h2 h3]
  apply checkModes_of_none
  simp only [h.kinds_eq, List.getElem?_cons_zero, List.getElem?_cons_succ]
  obtain hone | hm1 | hm2 | hm3 := hbad
  · exact .inr (.inr (modeOf_write_of_one_or_two_lt (.inl hone)))
  · exact .inl (modeOf_read_of_two_lt hm1)
  · exact .inr (.inl (modeOf_read_of_two_lt hm2))
  · exact .inr (.inr (modeOf_write_of_one_or_two_lt (.inr hm3)))

theorem StoresResult.exec_of_immediate_dst {a b dst : Param} {s : State} (hdst : dst.mode = .immediate) :
    exec (mk a b dst) s = .next (s.raiseFault .invalidMode (mk a b dst).headWord) := by
  have hill : (mk a b dst).wellFormed = false := by simp [h.wellFormed_eq, Param.legalFor, hdst]
  rw [h.exec_eq, storeResult, withLegalModes_of_not_wellFormed hill]

/-- With a legal destination the meaning is steps 6 to 8 of the cycle: parameter 1, parameter 2, the destination, the write. -/
theorem StoresResult.exec_of_legal_dst {a b dst : Param} {s : State} (hdst : dst.mode ≠ .immediate) :
    exec (mk a b dst) s =
      withRead a s fun x => withRead b s fun y => withDst dst s fun d =>
        .next ((s.storeCell d (f x y)).advance 4) := by
  rw [h.exec_eq, storeResult, withLegalModes_of_wellFormed (h.wellFormed_iff.2 hdst)]

/-- What R130 to R133 say holds of every constructor that stores a result in this way: each clause of an outcome follows the
parameters, in their order, to that outcome. -/
theorem StoresResult.threeParameterRule : ThreeParameterRule mk op.code f := by
  refine ⟨h.encode_eq, fun a b dst hdst => ?decode, fun a b dst s x y d hdst ha hb hd => ?effect,
    fun _ _ _ => h.decodeHeader_of_illegal_digit, fun _ _ _ _ => h.exec_of_immediate_dst,
    fun a b dst s e hdst ha => ?first, fun a b dst s x e hdst ha hb => ?second,
    fun a b dst s x y e hdst ha hb hd => ?destination⟩
  case decode => simpa using decode_encode_append (h.wellFormed_iff.2 hdst) []
  case effect =>
    rw [h.exec_of_legal_dst hdst, withRead_of_ok ha, withRead_of_ok hb, withDst_of_ok hd]
    rfl
  case first => rw [h.exec_of_legal_dst hdst, withRead_of_error ha]
  case second => rw [h.exec_of_legal_dst hdst, withRead_of_ok ha, withRead_of_error hb]
  case destination => rw [h.exec_of_legal_dst hdst, withRead_of_ok ha, withRead_of_ok hb, withDst_of_error hd]

end

/-- Settles O15: ADD stores its result by the common course, and its result is the exact sum. -/
theorem addStoresTheExactSum : Obligations.AddStoresTheExactSum := storesResult_add.threeParameterRule

/-- Settles O16: MUL stores its result by the common course, and its result is the exact product. -/
theorem mulStoresTheExactProduct : Obligations.MulStoresTheExactProduct := storesResult_mul.threeParameterRule

/-- Settles O17: LT stores its result by the common course, and its result is 1 or 0 by the order of the integers. -/
theorem ltStoresOneOrZero : Obligations.LtStoresOneOrZero := storesResult_lt.threeParameterRule

/-- Settles O18: EQ stores its result by the common course, and its result is 1 or 0 by their equality. -/
theorem eqStoresOneOrZero : Obligations.EqStoresOneOrZero := storesResult_eq.threeParameterRule

end Sys2Proof.Machine

/-! ## The instructions of format F1R with one course: the value of the only parameter, then an effect (R73, R141, R160) -/

namespace Sys2Proof.Machine

/-- A position the opcode does not use takes no digit but 0 (R80; decision D9). -/
theorem modeOf_fault_unused_of_ne_zero : ∀ {n : Nat}, n ≠ 0 → modeOf .fault none n = none
  | 0, h => absurd rfl h
  | _ + 1, _ => rfl

/-- What the instructions of format F1R share: `mk` makes instructions of the opcode `op` whose only parameter is read, and
whose meaning is an effect of its value on the state. -/
structure AppliesValue (mk : Param → Instr) (op : Opcode) (effect : Int → State → State) : Prop where
  opcode_eq : ∀ a, (mk a).opcode = op
  params_eq : ∀ a, (mk a).params = [a]
  kinds_eq : op.kinds = [.read]
  wellFormed : ∀ a, (mk a).wellFormed = true
  exec_eq : ∀ a s, exec (mk a) s = withRead a s fun v => .next (effect v s)

section

variable {mk : Param → Instr} {op : Opcode} {effect : Int → State → State} (h : AppliesValue mk op effect)
include h

theorem AppliesValue.encode_eq (a : Param) : encode (mk a) = [wordOfDigits a.mode.digit 0 0 op.code, a.word] := by
  simp [encode, Instr.headWord_eq, Instr.modeAt, h.params_eq, h.opcode_eq, Mode.digit]

theorem AppliesValue.exec_of_ok {a : Param} {s : State} {v : Int} (ha : resolveRead s a = .ok v) :
    exec (mk a) s = .next (effect v s) := by
  rw [h.exec_eq, withRead_of_ok ha]

theorem AppliesValue.exec_of_error {a : Param} {s : State} {e : Int} (ha : resolveRead s a = .error e) :
    exec (mk a) s = .next (s.raiseFault .negativeAddress e) := by
  rw [h.exec_eq, withRead_of_error ha]

theorem AppliesValue.decodeHeader_of_illegal_digit {m1 m2 m3 : Nat} (h1 : m1 ≤ 9) (h2 : m2 ≤ 9) (h3 : m3 ≤ 9)
    (hbad : 2 < m1 ∨ m2 ≠ 0 ∨ m3 ≠ 0) :
    decodeHeader (wordOfDigits m1 m2 m3 op.code) = .error (.invalidMode (wordOfDigits m1 m2 m3 op.code)) := by
  rw [decodeHeader_wordOfDigits op h1 h2 h3]
  apply checkModes_of_none
  simp only [h.kinds_eq, List.getElem?_cons_zero, List.getElem?_cons_succ, List.getElem?_nil]
  obtain hm1 | hm2 | hm3 := hbad
  · exact .inl (modeOf_read_of_two_lt hm1)
  · exact .inr (.inl (modeOf_fault_unused_of_ne_zero hm2))
  · exact .inr (.inr (modeOf_fault_unused_of_ne_zero hm3))

/-- What R141 and R160 say holds of every constructor that applies the value of its parameter in this way. -/
theorem AppliesValue.oneReadParameterRule : OneReadParameterRule mk op.code effect := by
  refine ⟨fun a => ⟨h.encode_eq a, ?decode⟩, fun _ _ _ => h.exec_of_ok, fun _ _ _ => h.decodeHeader_of_illegal_digit,
    fun _ _ _ => h.exec_of_error⟩
  case decode => simpa using decode_encode_append (h.wellFormed a) []

end

end Sys2Proof.Machine

/-! ## OUT (R141) and the pause at the output limit (R175) -/

namespace Sys2Proof.Machine

/-- Inside a run the output limit is looked at before anything else: once it is reached, a step pauses (R175, R207; decision
D15). -/
theorem step_of_output_limit {s : State} (hactive : s.active = true) (hlimit : s.maxOut = some s.outCount) :
    step s = .next (s.pause .pausedOnOutputCount) := by
  have hcycle : cycle s = .next (s.pause .pausedOnOutputCount) := by simp [cycle, limitReached, hlimit]
  simp [step, engineStep, hactive, hcycle]

theorem appliesValue_out : AppliesValue .out .out fun v s => (s.appendOutput v).advance 2 :=
  ⟨fun _ => rfl, fun _ => rfl, rfl, fun _ => rfl, fun _ _ => rfl⟩

/-- Settles O19: OUT applies its value by the common course; after the output that reaches the limit the run is still active,
so the next step finds the limit reached. -/
theorem outAppendsItsValue : Obligations.OutAppendsItsValue := by
  refine ⟨appliesValue_out.oneReadParameterRule, fun a s v ha hactive hlimit => ?_⟩
  have hreached : ((s.appendOutput v).advance 2).maxOut = some ((s.appendOutput v).advance 2).outCount := by
    simpa using hlimit
  exact ⟨(s.appendOutput v).advance 2, appliesValue_out.exec_of_ok ha, rfl, rfl, step_of_output_limit hactive hreached⟩

end Sys2Proof.Machine

/-! ## IN (R140) with its destination resolved, and its empty queue in the queued variant (R146) -/

namespace Sys2Proof.Machine

/-- An IN whose destination is legal and resolves goes on to the limit and the queue (R140, R109 (b)). -/
theorem exec_inp_of_resolved {dst : Param} {s : State} {d : Nat} (hdst : dst.mode ≠ .immediate)
    (hd : resolveWrite s dst = .ok d) : exec (.inp dst) s = input d s := by
  have hlegal : (Instr.inp dst).wellFormed = true := by simp [Instr.wellFormed, Param.legalFor, hdst]
  rw [exec, execIn, withLegalModes_of_wellFormed hlegal, withDst_of_ok hd]

/-- Below the input limit an empty queue of the queued variant is exhausted. -/
theorem inputSource_of_empty_queued {s : State} (hlimit : s.maxIn ≠ some s.inCount) (hqueue : s.inq = [])
    (hmode : s.inputMode = .queued) : inputSource s = .exhausted := by
  simp [inputSource, limitReached, hlimit, hqueue, hmode]

theorem input_of_exhausted {s : State} {d : Nat} (h : inputSource s = .exhausted) :
    input d s = .next (s.raiseFault .inputExhausted 0) := by
  simp [input, h]

/-- Settles O26: the destination resolves, the queue is found exhausted, and fault entry changes only what it records. -/
theorem inOnAnEmptyQueuedQueueIsFatal : Obligations.InOnAnEmptyQueuedQueueIsFatal := by
  refine ⟨rfl, fun dst s d hdst hd hlimit hqueue hmode => ?_⟩
  rw [exec_inp_of_resolved hdst hd, input_of_exhausted (inputSource_of_empty_queued hlimit hqueue hmode)]
  rfl

end Sys2Proof.Machine

/-! ## The jumps of format F2: JT and JF (R73, R150 to R152) -/

namespace Sys2Proof.Machine

/-- Inside a run below the output limit a negative IP is fatal before anything is fetched (R102, R207; decision D14). -/
theorem step_of_negative_ip {s : State} (hactive : s.active = true) (hlimit : s.maxOut ≠ some s.outCount) (hip : s.ip < 0) :
    step s = .next (s.raiseFault .negativeAddress s.ip) := by
  have hcycle : cycle s = .next (s.raiseFault .negativeAddress s.ip) := by simp [cycle, limitReached, hlimit, hip]
  simp [step, engineStep, hactive, hcycle]

/-- What the two jumps share: `mk` makes instructions of the opcode `op` whose two parameters are read, and whose meaning is
the common course `jumpIf` with the test `taken` of the condition. -/
structure JumpsWhen (mk : Param → Param → Instr) (op : Opcode) (taken : Int → Prop) [DecidablePred taken] : Prop where
  opcode_eq : ∀ c g, (mk c g).opcode = op
  params_eq : ∀ c g, (mk c g).params = [c, g]
  kinds_eq : op.kinds = [.read, .read]
  wellFormed : ∀ c g, (mk c g).wellFormed = true
  exec_eq : ∀ c g s, exec (mk c g) s = jumpIf (fun x => decide (taken x)) c g s

theorem jumpsWhen_jt : JumpsWhen .jt .jt fun x => x ≠ 0 :=
  ⟨fun _ _ => rfl, fun _ _ => rfl, rfl, fun _ _ => rfl, fun _ _ _ => rfl⟩

theorem jumpsWhen_jf : JumpsWhen .jf .jf fun x => x = 0 :=
  ⟨fun _ _ => rfl, fun _ _ => rfl, rfl, fun _ _ => rfl, fun _ _ _ => rfl⟩

section

variable {mk : Param → Param → Instr} {op : Opcode} {taken : Int → Prop} [DecidablePred taken] (h : JumpsWhen mk op taken)
include h

theorem JumpsWhen.encode_eq (c g : Param) :
    encode (mk c g) = [wordOfDigits c.mode.digit g.mode.digit 0 op.code, c.word, g.word] := by
  simp [encode, Instr.headWord_eq, Instr.modeAt, h.params_eq, h.opcode_eq, Mode.digit]

theorem JumpsWhen.decodeHeader_of_illegal_digit {m1 m2 m3 : Nat} (h1 : m1 ≤ 9) (h2 : m2 ≤ 9) (h3 : m3 ≤ 9)
    (hbad : 2 < m1 ∨ 2 < m2 ∨ m3 ≠ 0) :
    decodeHeader (wordOfDigits m1 m2 m3 op.code) = .error (.invalidMode (wordOfDigits m1 m2 m3 op.code)) := by
  rw [decodeHeader_wordOfDigits op h1 h2 h3]
  apply checkModes_of_none
  simp only [h.kinds_eq, List.getElem?_cons_zero, List.getElem?_cons_succ, List.getElem?_nil]
  obtain hm1 | hm2 | hm3 := hbad
  · exact .inl (modeOf_read_of_two_lt hm1)
  · exact .inr (.inl (modeOf_read_of_two_lt hm2))
  · exact .inr (.inr (modeOf_fault_unused_of_ne_zero hm3))

/-- With both parameters resolved the test of the condition alone chooses between the target and the next instruction. -/
theorem JumpsWhen.exec_of_ok {c g : Param} {s : State} {x y : Int} (hc : resolveRead s c = .ok x)
    (hg : resolveRead s g = .ok y) : exec (mk c g) s = .next (if taken x then s.jumpTo y else s.advance 3) := by
  rw [h.exec_eq, jumpIf, withRead_of_ok hc, withRead_of_ok hg]
  simp

theorem JumpsWhen.exec_of_taken {c g : Param} {s : State} {x y : Int} (hc : resolveRead s c = .ok x)
    (hg : resolveRead s g = .ok y) (htaken : taken x) : exec (mk c g) s = .next (s.jumpTo y) := by
  rw [h.exec_of_ok hc hg, if_pos htaken]

theorem JumpsWhen.exec_of_not_taken {c g : Param} {s : State} {x y : Int} (hc : resolveRead s c = .ok x)
    (hg : resolveRead s g = .ok y) (htaken : ¬ taken x) : exec (mk c g) s = .next (s.advance 3) := by
  rw [h.exec_of_ok hc hg, if_neg htaken]

theorem JumpsWhen.exec_of_condition_error {c g : Param} {s : State} {e : Int} (hc : resolveRead s c = .error e) :
    exec (mk c g) s = .next (s.raiseFault .negativeAddress e) := by
  rw [h.exec_eq, jumpIf, withRead_of_error hc]

/-- The target is resolved whatever the test says of the condition (R109 (a); decision D13). -/
theorem JumpsWhen.exec_of_target_error {c g : Param} {s : State} {x e : Int} (hc : resolveRead s c = .ok x)
    (hg : resolveRead s g = .error e) : exec (mk c g) s = .next (s.raiseFault .negativeAddress e) := by
  rw [h.exec_eq, jumpIf, withRead_of_ok hc, withRead_of_error hg]

/-- What R150 and R151 say holds of every constructor that jumps in this way. A jump keeps the run active and the output limit
as it was, so after a jump to a negative target the next step gets as far as the check of IP. -/
theorem JumpsWhen.jumpRule : JumpRule mk op.code taken := by
  refine ⟨fun c g => ⟨h.encode_eq c g, ?decode⟩, fun _ _ _ _ _ => h.exec_of_taken, fun _ _ _ _ _ => h.exec_of_not_taken,
    fun c g s x y hc hg htaken hy hactive hlimit => ⟨s.jumpTo y, h.exec_of_taken hc hg htaken, ?negative_target⟩,
    fun _ _ _ => h.decodeHeader_of_illegal_digit, fun _ _ _ _ => h.exec_of_condition_error,
    fun _ _ _ _ _ => h.exec_of_target_error⟩
  case decode => simpa using decode_encode_append (h.wellFormed c g) []
  case negative_target => exact step_of_negative_ip (s := s.jumpTo y) hactive hlimit hy

end

/-- Settles O21: JT jumps by the common course, on every condition but 0. -/
theorem jtJumpsUnlessZero : Obligations.JtJumpsUnlessZero := jumpsWhen_jt.jumpRule

/-- Settles O22: JF jumps by the common course, on the condition 0 alone. -/
theorem jfJumpsOnZero : Obligations.JfJumpsOnZero := jumpsWhen_jf.jumpRule

end Sys2Proof.Machine

/-! ## ARB (R160), and RB as every other instruction leaves it (R160)

Each shared course keeps RB in every outcome, its faults and pauses included; ARB alone goes through none of them. -/

namespace Sys2Proof.Machine

theorem storeResult_rb {i : Instr} {f : Int → Int → Int} {a b d : Param} {s t : State}
    (h : storeResult i f a b d s = .next t) : t.rb = s.rb := by
  obtain ⟨-, rfl⟩ | ⟨_, -, rfl⟩ | ⟨_, _, _, -, -, -, -, rfl⟩ := storeResult_cases h <;> simp

theorem jumpIf_rb {test : Int → Bool} {c g : Param} {s t : State} (h : jumpIf test c g s = .next t) : t.rb = s.rb := by
  obtain ⟨_, -, rfl⟩ | ⟨_, _, -, -, ⟨-, rfl⟩ | ⟨-, rfl⟩⟩ := jumpIf_cases h <;> simp

theorem input_rb {d : Nat} {s t : State} (h : input d s = .next t) : t.rb = s.rb := by
  obtain ⟨-, rfl⟩ | ⟨_, _, -, rfl⟩ | ⟨-, -, rfl⟩ | ⟨_, -, -, rfl⟩ | ⟨-, -, rfl⟩ := input_cases h <;> simp

theorem execIn_rb {p : Param} {s t : State} (h : execIn p s = .next t) : t.rb = s.rb := by
  obtain ⟨-, rfl⟩ | ⟨_, -, rfl⟩ | ⟨_, -, -, hinput⟩ := execIn_cases h
  · simp
  · simp
  · exact input_rb hinput

theorem execOut_rb {p : Param} {s t : State} (h : execOut p s = .next t) : t.rb = s.rb := by
  obtain ⟨_, -, rfl⟩ | ⟨_, -, rfl⟩ := execOut_cases h <;> simp

theorem execHlt_rb {s t : State} (h : execHlt s = .next t) : t.rb = s.rb := by
  cases h
  simp

/-- An instruction keeps RB, or it is an ARB: one course per constructor. -/
theorem exec_rb_eq_or_arb {i : Instr} {s t : State} (h : exec i s = .next t) : t.rb = s.rb ∨ ∃ a, i = .arb a := by
  cases i with
  | add _ _ _ => exact .inl (storeResult_rb h)
  | mul _ _ _ => exact .inl (storeResult_rb h)
  | lt _ _ _ => exact .inl (storeResult_rb h)
  | eq _ _ _ => exact .inl (storeResult_rb h)
  | inp _ => exact .inl (execIn_rb h)
  | out _ => exact .inl (execOut_rb h)
  | jt _ _ => exact .inl (jumpIf_rb h)
  | jf _ _ => exact .inl (jumpIf_rb h)
  | arb a => exact .inr ⟨a, rfl⟩
  | hlt => exact .inl (execHlt_rb h)

theorem appliesValue_arb : AppliesValue .arb .arb fun v s => (s.adjustBase v).advance 2 :=
  ⟨fun _ => rfl, fun _ => rfl, rfl, fun _ => rfl, fun _ _ => rfl⟩

/-- Settles O20: ARB applies its value by the common course of format F1R, and no other instruction's course changes RB. -/
theorem arbAddsToTheRelativeBase : Obligations.ArbAddsToTheRelativeBase :=
  ⟨appliesValue_arb.oneReadParameterRule, fun _ _ _ h hchanged => (exec_rb_eq_or_arb h).resolve_left hchanged⟩

end Sys2Proof.Machine

/-! ## The output log and OUT_COUNT together (R29, R141): OUT adds one to each, every other instruction keeps both -/

namespace Sys2Proof.Machine

theorem storeResult_outputs {i : Instr} {f : Int → Int → Int} {a b d : Param} {s t : State}
    (h : storeResult i f a b d s = .next t) : t.out = s.out ∧ t.outCount = s.outCount := by
  obtain ⟨-, rfl⟩ | ⟨_, -, rfl⟩ | ⟨_, _, _, -, -, -, -, rfl⟩ := storeResult_cases h <;> simp

theorem jumpIf_outputs {test : Int → Bool} {c g : Param} {s t : State} (h : jumpIf test c g s = .next t) :
    t.out = s.out ∧ t.outCount = s.outCount := by
  obtain ⟨_, -, rfl⟩ | ⟨_, _, -, -, ⟨-, rfl⟩ | ⟨-, rfl⟩⟩ := jumpIf_cases h <;> simp

theorem input_outputs {d : Nat} {s t : State} (h : input d s = .next t) :
    t.out = s.out ∧ t.outCount = s.outCount := by
  obtain ⟨-, rfl⟩ | ⟨_, _, -, rfl⟩ | ⟨-, -, rfl⟩ | ⟨_, -, -, rfl⟩ | ⟨-, -, rfl⟩ := input_cases h <;> simp

theorem execIn_outputs {p : Param} {s t : State} (h : execIn p s = .next t) :
    t.out = s.out ∧ t.outCount = s.outCount := by
  obtain ⟨-, rfl⟩ | ⟨_, -, rfl⟩ | ⟨_, -, -, hinput⟩ := execIn_cases h
  · simp
  · simp
  · exact input_outputs hinput

theorem execArb_outputs {p : Param} {s t : State} (h : execArb p s = .next t) :
    t.out = s.out ∧ t.outCount = s.outCount := by
  obtain ⟨_, -, rfl⟩ | ⟨_, -, rfl⟩ := execArb_cases h <;> simp

theorem execHlt_outputs {s t : State} (h : execHlt s = .next t) : t.out = s.out ∧ t.outCount = s.outCount := by
  cases h
  simp

@[simp] theorem raiseWordError_out (s : State) (e : WordError) : (raiseWordError s e).out = s.out := by cases e <;> rfl

@[simp] theorem raiseWordError_outCount (s : State) (e : WordError) : (raiseWordError s e).outCount = s.outCount := by
  cases e <;> rfl

/-- An instruction keeps the log and OUT_COUNT, or it is an OUT that appends its value and is counted. -/
theorem exec_outputs_cases {i : Instr} {s t : State} (h : exec i s = .next t) :
    (t.out = s.out ∧ t.outCount = s.outCount) ∨
      ∃ a v, i = .out a ∧ t.out = s.out ++ [v] ∧ t.outCount = s.outCount + 1 := by
  cases i with
  | add _ _ _ => exact .inl (storeResult_outputs h)
  | mul _ _ _ => exact .inl (storeResult_outputs h)
  | lt _ _ _ => exact .inl (storeResult_outputs h)
  | eq _ _ _ => exact .inl (storeResult_outputs h)
  | inp _ => exact .inl (execIn_outputs h)
  | jt _ _ => exact .inl (jumpIf_outputs h)
  | jf _ _ => exact .inl (jumpIf_outputs h)
  | arb _ => exact .inl (execArb_outputs h)
  | hlt => exact .inl (execHlt_outputs h)
  | out a =>
    obtain ⟨_, -, rfl⟩ | ⟨v, -, rfl⟩ := execOut_cases h
    · exact .inl ⟨rfl, rfl⟩
    · exact .inr ⟨a, v, rfl, rfl, rfl⟩

/-- An engine step keeps the log and OUT_COUNT, its pauses and faults included, or it runs an OUT that appends its value and
is counted. -/
theorem step_outputs_cases {s t : State} (h : step s = .next t) :
    (t.out = s.out ∧ t.outCount = s.outCount) ∨
      ∃ a v, fetch s = .ok (.out a) ∧ t.out = s.out ++ [v] ∧ t.outCount = s.outCount + 1 := by
  unfold step at h
  obtain ⟨-, hcycle⟩ | ⟨-, _, -, hfault⟩ | ⟨-, -, hrest⟩ := engineStep_cases s
  · rw [hcycle] at h
    obtain ⟨-, hc⟩ | ⟨-, -, hc⟩ | ⟨_, -, -, -, hc⟩ | ⟨i, -, -, hi, hc⟩ := cycle_cases s <;> rw [hc] at h
    · cases h; simp
    · cases h; simp
    · cases h; simp
    · obtain hkept | ⟨a, v, rfl, happended⟩ := exec_outputs_cases h
      · exact .inl hkept
      · exact .inr ⟨a, v, hi, happended⟩
  · rw [hfault] at h
    cases h
  · rw [hrest] at h
    cases h
    exact .inl ⟨rfl, rfl⟩

/-- From `s` to `t` the log has grown at its end by as many values as OUT_COUNT has risen by. -/
def AppendsOutputs (s t : State) : Prop :=
  ∃ new : List Int, t.out = s.out ++ new ∧ t.outCount = s.outCount + new.length

theorem AppendsOutputs.refl (s : State) : AppendsOutputs s s := ⟨[], by simp⟩

/-- One more step keeps the log and the count in agreement. -/
theorem AppendsOutputs.step {s u v : State} (hsu : AppendsOutputs s u) (h : step u = .next v) : AppendsOutputs s v := by
  obtain ⟨new, hout, hcount⟩ := hsu
  obtain ⟨hout', hcount'⟩ | ⟨_, x, -, hout', hcount'⟩ := step_outputs_cases h
  · exact ⟨new, hout'.trans hout, hcount'.trans hcount⟩
  · exact ⟨new ++ [x], by simp [hout', hout], by simp [hcount', hcount, Nat.add_assoc]⟩

end Sys2Proof.Machine

/-! ## Whole runs (R172, R173) and what `output_log` answers after them (R183) -/

namespace Sys2Proof.Machine

/-- What every step inside a run keeps holds of the state in which the run has ended, if it holds where the cycles begin. -/
theorem runCycles_preserves {P : State → Prop} (hstep : ∀ {u v : State}, u.active = true → step u = .next v → P u → P v)
    {t : State} : ∀ {n : Nat} {s : State}, runCycles n s = some t → P s → P t
  | 0, s, h, hs => by
    unfold runCycles at h
    split at h <;> cases h
    exact hs
  | n + 1, s, h, hs => by
    unfold runCycles at h
    split at h
    · split at h
      · exact runCycles_preserves hstep h (hstep ‹_› ‹_› hs)
      · cases h
      · cases h
    · cases h
      exact hs

theorem perform_next {op : HostOp} {s : State} {x : State × Reply} :
    perform op s = .next x ↔ notPermitted op s = none ∧ transact op s = .next x := by
  unfold perform
  cases notPermitted op s <;> simp

/-- A run starts in every status but the two that only answer their result again (R172, R179 to R181). -/
theorem hostRun_starts {s : State} (mo mi : Option Nat) (hhalted : s.status ≠ .halted) (hfaulted : s.status ≠ .faulted) :
    hostRun mo mi s = .next (s.startRun mo mi, .started) := by
  cases hstatus : s.status with
  | running => simp [hostRun, hstatus]
  | pausedOnOutputCount => simp [hostRun, hstatus]
  | pausedOnInputCount => simp [hostRun, hstatus]
  | halted => exact absurd hstatus hhalted
  | faulted => exact absurd hstatus hfaulted

/-- A `run` that is not refused, with the machine neither Halted nor Faulted, has started the engine. -/
theorem perform_run_starts {a b : Option Int} {s t : State} {r : Reply} (hhalted : s.status ≠ .halted)
    (hfaulted : s.status ≠ .faulted) (h : perform (.run a b) s = .next (t, r)) : ∃ mo mi, t = s.startRun mo mi := by
  obtain ⟨-, h⟩ := perform_next.1 h
  simp only [transact, hostRun_starts _ _ hhalted hfaulted] at h
  split at h <;> cases h
  exact ⟨_, _, rfl⟩

/-- A whole run that started is the cycles from the start of the run to the state in which it has ended. -/
theorem runTransaction_cycles {fuel : Nat} {a b : Option Int} {s t : State} {r : RunResult} (hhalted : s.status ≠ .halted)
    (hfaulted : s.status ≠ .faulted) (h : runTransaction fuel a b s = some (t, r)) :
    ∃ mo mi, runCycles fuel (s.startRun mo mi) = some t ∧ runResult t = some r := by
  unfold runTransaction at h
  split at h
  · rename_i hperform
    obtain ⟨mo, mi, rfl⟩ := perform_run_starts hhalted hfaulted hperform
    split at h
    · rename_i u hcycles
      obtain ⟨r', hresult, hpair⟩ := Option.map_eq_some_iff.1 h
      cases hpair
      exact ⟨mo, mi, hcycles, hresult⟩
    · cases h
  · cases h
  · cases h

theorem notPermitted_eq_none_at_rest {op : HostOp} {s : State} (hrest : s.active = false) (hfaulted : s.status ≠ .faulted) :
    notPermitted op s = none := by
  simp [notPermitted, hrest, hfaulted]

/-- Settles O52: the query answers the log as it stands. The start of a run keeps the log and sets OUT_COUNT to 0, and from
there every step appends as many values as it counts. -/
theorem outputLogReturnsTheWholeHistory : Obligations.OutputLogReturnsTheWholeHistory := by
  refine ⟨fun s hrest hfaulted => perform_next.2 ⟨notPermitted_eq_none_at_rest hrest hfaulted, rfl⟩, ?run⟩
  intro fuel a b s t r hhalted hfaulted h
  obtain ⟨mo, mi, hcycles, -⟩ := runTransaction_cycles hhalted hfaulted h
  have hgrown : AppendsOutputs (s.startRun mo mi) t :=
    runCycles_preserves (fun _ hstep hu => hu.step hstep) hcycles (.refl _)
  obtain ⟨new, hout, hcount⟩ := hgrown
  exact ⟨new, by simpa using hout, by simpa using hcount.symm⟩

end Sys2Proof.Machine

/-! ## Who raises InputExhausted (R204): an instruction keeps FAULT or records another cause, except IN on an exhausted queue -/

namespace Sys2Proof.Machine

/-- From `s` to `t` no InputExhausted was recorded: FAULT is kept, or it holds another cause. -/
def NoNewExhaustion (s t : State) : Prop :=
  t.fault = s.fault ∨ ∃ f, t.fault = some f ∧ f.cause ≠ .inputExhausted

theorem noNewExhaustion_raiseFault (s : State) {c : Cause} (x : Int) (hc : c ≠ .inputExhausted) :
    NoNewExhaustion s (s.raiseFault c x) :=
  .inr ⟨⟨c, s.ip, x⟩, s.raiseFault_fault c x, hc⟩

/-- Where no FAULT was, one of the cause InputExhausted is a new one. -/
theorem NoNewExhaustion.cause_ne {s t : State} {f : FaultRecord} (h : NoNewExhaustion s t) (hs : s.fault = none)
    (ht : t.fault = some f) : f.cause ≠ .inputExhausted := by
  obtain hkept | ⟨g, hg, hne⟩ := h
  · rw [hkept, hs] at ht
    cases ht
  · rw [ht] at hg
    cases hg
    exact hne

theorem storeResult_noNewExhaustion {i : Instr} {f : Int → Int → Int} {a b d : Param} {s t : State}
    (h : storeResult i f a b d s = .next t) : NoNewExhaustion s t := by
  obtain ⟨-, rfl⟩ | ⟨x, -, rfl⟩ | ⟨_, _, _, -, -, -, -, rfl⟩ := storeResult_cases h
  · exact noNewExhaustion_raiseFault s _ nofun
  · exact noNewExhaustion_raiseFault s x nofun
  · exact .inl (by simp)

theorem jumpIf_noNewExhaustion {test : Int → Bool} {c g : Param} {s t : State} (h : jumpIf test c g s = .next t) :
    NoNewExhaustion s t := by
  obtain ⟨x, -, rfl⟩ | ⟨_, _, -, -, ⟨-, rfl⟩ | ⟨-, rfl⟩⟩ := jumpIf_cases h
  · exact noNewExhaustion_raiseFault s x nofun
  · exact .inl (by simp)
  · exact .inl (by simp)

theorem execOut_noNewExhaustion {p : Param} {s t : State} (h : execOut p s = .next t) : NoNewExhaustion s t := by
  obtain ⟨x, -, rfl⟩ | ⟨_, -, rfl⟩ := execOut_cases h
  · exact noNewExhaustion_raiseFault s x nofun
  · exact .inl (by simp)

theorem execArb_noNewExhaustion {p : Param} {s t : State} (h : execArb p s = .next t) : NoNewExhaustion s t := by
  obtain ⟨x, -, rfl⟩ | ⟨_, -, rfl⟩ := execArb_cases h
  · exact noNewExhaustion_raiseFault s x nofun
  · exact .inl (by simp)

theorem execHlt_noNewExhaustion {s t : State} (h : execHlt s = .next t) : NoNewExhaustion s t := by
  cases h
  exact .inl (by simp)

/-- At the input limit IN pauses before it looks at the queue (R176; decision D16). -/
theorem input_of_limit {s : State} {d : Nat} (h : s.maxIn = some s.inCount) :
    input d s = .next (s.pause .pausedOnInputCount) := by
  simp [input, inputSource, limitReached, h]

/-- Step 7 of IN keeps FAULT, or it has found the queue exhausted below the limit. -/
theorem input_fault_cases {d : Nat} {s t : State} (h : input d s = .next t) :
    t.fault = s.fault ∨
      (s.maxIn ≠ some s.inCount ∧ s.inputMode = .queued ∧ s.inq = [] ∧ t = s.raiseFault .inputExhausted 0) := by
  by_cases hlimit : s.maxIn = some s.inCount
  · rw [input_of_limit hlimit] at h
    cases h
    exact .inl (by simp)
  · obtain ⟨hreached, -⟩ | ⟨_, _, -, rfl⟩ | ⟨hqueue, hmode, rfl⟩ | ⟨_, -, -, rfl⟩ | ⟨-, -, rfl⟩ := input_cases h
    · exact absurd hreached hlimit
    · exact .inl (by simp)
    · exact .inr ⟨hlimit, hmode, hqueue, rfl⟩
    · exact .inl (by simp)
    · exact .inl rfl

/-- IN records no InputExhausted, or its destination has resolved and it has found the queue exhausted below the limit. -/
theorem execIn_exhaustion_cases {p : Param} {s t : State} (h : execIn p s = .next t) :
    NoNewExhaustion s t ∨
      ∃ d, resolveWrite s p = .ok d ∧ s.maxIn ≠ some s.inCount ∧ s.inputMode = .queued ∧ s.inq = [] ∧
        t = s.raiseFault .inputExhausted 0 := by
  obtain ⟨-, rfl⟩ | ⟨x, -, rfl⟩ | ⟨d, -, hd, hinput⟩ := execIn_cases h
  · exact .inl (noNewExhaustion_raiseFault s _ nofun)
  · exact .inl (noNewExhaustion_raiseFault s x nofun)
  · obtain hkept | hexhausted := input_fault_cases hinput
    · exact .inl (.inl hkept)
    · exact .inr ⟨d, hd, hexhausted⟩

/-- An instruction records no InputExhausted, or it is an IN that has found the queue exhausted: one course per constructor. -/
theorem exec_exhaustion_cases {i : Instr} {s t : State} (h : exec i s = .next t) :
    NoNewExhaustion s t ∨
      ∃ dst d, i = .inp dst ∧ resolveWrite s dst = .ok d ∧ s.maxIn ≠ some s.inCount ∧ s.inputMode = .queued ∧
        s.inq = [] ∧ t = s.raiseFault .inputExhausted 0 := by
  cases i with
  | add _ _ _ => exact .inl (storeResult_noNewExhaustion h)
  | mul _ _ _ => exact .inl (storeResult_noNewExhaustion h)
  | lt _ _ _ => exact .inl (storeResult_noNewExhaustion h)
  | eq _ _ _ => exact .inl (storeResult_noNewExhaustion h)
  | out _ => exact .inl (execOut_noNewExhaustion h)
  | jt _ _ => exact .inl (jumpIf_noNewExhaustion h)
  | jf _ _ => exact .inl (jumpIf_noNewExhaustion h)
  | arb _ => exact .inl (execArb_noNewExhaustion h)
  | hlt => exact .inl (execHlt_noNewExhaustion h)
  | inp dst =>
    obtain hnone | ⟨d, hexhausted⟩ := execIn_exhaustion_cases h
    · exact .inl hnone
    · exact .inr ⟨dst, d, rfl, hexhausted⟩

/-- Settles O34: an IN that resolves its destination and finds the queue exhausted raises it, and a new record of this cause
leaves that outcome alone, whose `info` is 0. -/
theorem onlyInRaisesInputExhausted : Obligations.OnlyInRaisesInputExhausted := by
  refine ⟨fun dst s d hdst hd hlimit hmode hqueue => ?raises, fun i s t f h hs ht hcause => ?only⟩
  case raises =>
    rw [exec_inp_of_resolved hdst hd, input_of_exhausted (inputSource_of_empty_queued hlimit hqueue hmode)]
  case only =>
    obtain hnone | ⟨dst, d, hi, hd, hlimit, hmode, hqueue, rfl⟩ := exec_exhaustion_cases h
    · exact absurd hcause (hnone.cause_ne hs ht)
    · cases ht
      exact ⟨dst, d, hi, hd, hlimit, hmode, hqueue, rfl⟩

end Sys2Proof.Machine

/-! ## The decoder as a whole: which words it accepts, and which lists of cells (R70, R71, R103, R104) -/

namespace Sys2Proof

/-- Settles O5: the cells of a well-formed instruction decode to it, whatever cells follow. -/
theorem decodeAfterEncodeIsTheInstruction : Obligations.DecodeAfterEncodeIsTheInstruction :=
  fun _ rest h => decode_encode_append h rest

/-- A digit is that of the mode it names (R75; decision D9 for the positions without a parameter). -/
theorem eq_digit_of_modeOf_fault {k : Option Kind} {d : Nat} {m : Mode} (h : modeOf .fault k d = some m) : d = m.digit := by
  unfold modeOf at h
  split at h <;> cases h <;> rfl

/-- A position without a parameter names no mode but `position` (R80). -/
theorem eq_position_of_modeOf_none {policy : UnusedModePolicy} {d : Nat} {m : Mode}
    (h : modeOf policy none d = some m) : m = .position := by
  cases policy <;> cases d <;> cases h <;> rfl

/-- A destination is never in immediate mode (R79; decision D8). -/
theorem ne_immediate_of_modeOf_write {policy : UnusedModePolicy} {m : Mode} :
    ∀ {d : Nat}, modeOf policy (some .write) d = some m → m ≠ .immediate
  | 0, h => by cases h; decide
  | 2, h => by cases h; decide

/-- The instruction word that a header is read from (R71). -/
def Header.word (h : Header) : Int := wordOfDigits h.m1.digit h.m2.digit h.m3.digit h.op.code

/-- Every mode of a header is one its digit names at that position (R75, R78 to R80). -/
abbrev Header.Legal (h : Header) : Prop :=
  modeOf .fault h.op.kinds[0]? h.m1.digit = some h.m1 ∧ modeOf .fault h.op.kinds[1]? h.m2.digit = some h.m2 ∧
    modeOf .fault h.op.kinds[2]? h.m3.digit = some h.m3

theorem Mode.digit_le_nine (m : Mode) : m.digit ≤ 9 := (Laws.HeadWordRange.digit_le_two m).trans (by decide)

/-- A word of at most five digits is written from its digits of weight 100 to 10000 and its low two (R71). -/
theorem eq_wordOfDigits {w : Int} (h0 : 0 ≤ w) (h1 : w < 100000) :
    w = wordOfDigits (digit 2 w.toNat) (digit 3 w.toNat) (digit 4 w.toNat) (w.toNat % 100) := by
  simp only [wordOfDigits, digit, Int.ofNat_eq_natCast]
  omega

/-- The decoder accepts exactly the words of the legal headers. -/
theorem decodeHeader_eq_ok_iff {w : Int} {h : Header} : decodeHeader w = .ok h ↔ h.Legal ∧ w = h.word := by
  constructor
  · intro hw
    obtain ⟨f, hf, hmodes⟩ := decodeHeader_ok.1 hw
    obtain ⟨hop, h1, h2, h3⟩ := checkModes_ok.1 hmodes
    have hd1 := eq_digit_of_modeOf_fault h1
    have hd2 := eq_digit_of_modeOf_fault h2
    have hd3 := eq_digit_of_modeOf_fault h3
    obtain ⟨hnonneg, hlt, hcode, hf1, hf2, hf3⟩ := splitWord_ok.1 hf
    rw [hop, hd1] at h1
    rw [hop, hd2] at h2
    rw [hop, hd3] at h3
    refine ⟨⟨h1, h2, h3⟩, ?_⟩
    rw [Header.word, ← hd1, ← hd2, ← hd3, hf1, hf2, hf3, ← hop, ← hcode]
    exact eq_wordOfDigits hnonneg hlt
  · rintro ⟨hlegal, rfl⟩
    rw [Header.word, decodeHeader_wordOfDigits _ h.m1.digit_le_nine h.m2.digit_le_nine h.m3.digit_le_nine]
    exact checkModes_ok.2 ⟨rfl, hlegal⟩

/-! ### Each list of cells has one meaning -/

/-- The instruction assembled from a legal header has that header again. -/
theorem Header.header_assemble {h : Header} (hlegal : h.Legal) (ps : List Int) : (h.assemble ps).header = h := by
  obtain ⟨op, m1, m2, m3⟩ := h
  obtain ⟨h1, h2, h3⟩ := hlegal
  cases op with
  | add | mul | lt | eq => rfl
  | jt | jf =>
    cases eq_position_of_modeOf_none h3
    rfl
  | inp | out | arb =>
    cases eq_position_of_modeOf_none h2
    cases eq_position_of_modeOf_none h3
    rfl
  | hlt =>
    cases eq_position_of_modeOf_none h1
    cases eq_position_of_modeOf_none h2
    cases eq_position_of_modeOf_none h3
    rfl

/-- The instruction assembled from a legal header is well formed. -/
theorem Header.wellFormed_assemble {h : Header} (hlegal : h.Legal) (ps : List Int) : (h.assemble ps).wellFormed = true := by
  obtain ⟨op, m1, m2, m3⟩ := h
  obtain ⟨h1, -, h3⟩ := hlegal
  cases op with
  | add | mul | lt | eq =>
    simpa [Header.assemble, Instr.wellFormed, Param.legalFor] using ne_immediate_of_modeOf_write h3
  | inp => simpa [Header.assemble, Instr.wellFormed, Param.legalFor] using ne_immediate_of_modeOf_write h1
  | out | jt | jf | arb | hlt => rfl

/-- The parameter words of an assembled instruction, by position. -/
theorem Header.words_assemble_eq_range (h : Header) (ps : List Int) :
    (h.assemble ps).params.map Param.word = (List.range h.op.nparams).map fun k => ps.getD k 0 := by
  obtain ⟨op, m1, m2, m3⟩ := h
  cases op <;> rfl

/-- The parameter words of an instruction assembled from as many words as its opcode takes are those words. -/
theorem Header.words_assemble {h : Header} {ps : List Int} (hlen : ps.length = h.op.nparams) :
    (h.assemble ps).params.map Param.word = ps := by
  rw [h.words_assemble_eq_range, ← hlen]
  exact List.ext_getElem (by simp) fun k hk _ => by simp [List.getElem?_eq_getElem (by simpa using hk)]

/-- The cells of an instruction assembled from a legal header and its words. -/
theorem Header.encode_assemble {h : Header} (hlegal : h.Legal) {ps : List Int} (hlen : ps.length = h.op.nparams) :
    encode (h.assemble ps) = h.word :: ps := by
  have hheader := Header.header_assemble hlegal ps
  have hword : (h.assemble ps).headWord = h.word := by
    rw [Instr.headWord_eq]
    exact congrArg Header.word hheader
  rw [encode, hword, Header.words_assemble hlen]

/-- What decodes begins with an accepted word and as many parameter words as its opcode takes (R70, R84). -/
theorem decode_cases {ws rest : List Int} {i : Instr} (h : decode ws = .ok (i, rest)) :
    ∃ w hd ps, ws = w :: (ps ++ rest) ∧ decodeHeader w = .ok hd ∧ ps.length = hd.op.nparams ∧ i = hd.assemble ps := by
  cases ws with
  | nil => cases h
  | cons w tail =>
    simp only [decode, decodeWith] at h
    split at h
    · cases h
    · rename_i hd hw
      split at h
      · cases h
      · rename_i hlen
        cases h
        exact ⟨w, hd, tail.take hd.op.nparams, by simp, hw, by simpa using hlen, rfl⟩

/-- Settles O6: the accepted word is the word of a legal header, which with the parameter words after it makes an instruction
whose cells are these. -/
theorem encodeAfterDecodeIsTheCells : Obligations.EncodeAfterDecodeIsTheCells := by
  intro ws rest i h
  obtain ⟨w, hd, ps, rfl, hw, hlen, rfl⟩ := decode_cases h
  obtain ⟨hlegal, rfl⟩ := decodeHeader_eq_ok_iff.1 hw
  exact ⟨Header.wellFormed_assemble hlegal ps, by simp [Header.encode_assemble hlegal hlen]⟩

/-! ### The legal words listed (R85) -/

/-- The three modes, by their digits. -/
def Mode.all : List Mode := [.position, .immediate, .relative]

/-- The ten opcodes, by their codes. -/
def Opcode.all : List Opcode := [.add, .mul, .inp, .out, .jt, .jf, .lt, .eq, .arb, .hlt]

/-- Every header, legal or not, by its opcode and then its word. -/
def Header.all : List Header :=
  Opcode.all.flatMap fun op => Mode.all.flatMap fun m3 => Mode.all.flatMap fun m2 => Mode.all.map fun m1 => ⟨op, m1, m2, m3⟩

theorem Mode.mem_all (m : Mode) : m ∈ Mode.all := by cases m <;> decide

theorem Opcode.mem_all (op : Opcode) : op ∈ Opcode.all := by cases op <;> decide

theorem Header.mem_all (h : Header) : h ∈ Header.all := by
  simp only [Header.all, List.mem_flatMap, List.mem_map]
  exact ⟨h.op, h.op.mem_all, h.m3, h.m3.mem_all, h.m2, h.m2.mem_all, h.m1, h.m1.mem_all, rfl⟩

/-- The words of the legal headers. -/
def legalWords : List Int := (Header.all.filter fun h => decide h.Legal).map Header.word

theorem mem_legalWords {w : Int} : w ∈ legalWords ↔ ∃ h, decodeHeader w = .ok h := by
  simp only [legalWords, List.mem_map, List.mem_filter, decide_eq_true_eq, Header.mem_all, true_and, decodeHeader_eq_ok_iff]
  exact exists_congr fun _ => and_congr_right fun _ => eq_comm

/-- Settles O7: the words of the legal headers, of which there are finitely many, are those of the list in its order. -/
theorem legalWordsAreThoseListed : Obligations.LegalWordsAreThoseListed := by
  intro w
  rw [← mem_legalWords]
  exact Eq.to_iff (congrArg (w ∈ ·) (by rfl))

/-! ### The refused words (R201, R202) -/

/-- A number selects no opcode exactly when no opcode has it as its code (R72, R77). -/
theorem Opcode.ofCode_eq_none_iff {n : Nat} : Opcode.ofCode n = none ↔ ∀ op : Opcode, n ≠ op.code := by
  simp [Option.eq_none_iff_forall_not_mem, Opcode.ofCode_eq_some]

/-- The codes of the ten opcodes (R72). -/
theorem Opcode.exists_code_iff {n : Nat} : (∃ op : Opcode, n = op.code) ↔ n ∈ Opcode.all.map Opcode.code := by
  simp [Opcode.mem_all, eq_comm]

/-- `splitWord` refuses exactly the negative words, the words of six or more digits, and those whose low two digits are no
opcode (R77, R81, R82). -/
theorem splitWord_eq_error_iff {w : Int} :
    splitWord w = .error (.invalidOpcode w) ↔ w < 0 ∨ 100000 ≤ w ∨ ∀ op : Opcode, w.toNat % 100 ≠ op.code := by
  constructor
  · intro h
    by_contra! hcon
    obtain ⟨h0, h1, op, hop⟩ := hcon
    have hok : splitWord w = .ok ⟨op, digit 2 w.toNat, digit 3 w.toNat, digit 4 w.toNat⟩ :=
      splitWord_ok.2 ⟨h0, h1, hop, rfl, rfl, rfl⟩
    rw [hok] at h
    cases h
  · intro h
    cases hw : splitWord w with
    | error e => rw [splitWord_error hw]
    | ok f =>
      obtain ⟨h0, h1, hop, -⟩ := splitWord_ok.1 hw
      obtain hneg | hbig | hnone := h
      · omega
      · omega
      · exact absurd hop (hnone f.op)

/-- InvalidOpcode comes from the split of the word alone: a refused mode is InvalidMode. -/
theorem decodeHeader_eq_invalidOpcode_iff {w : Int} :
    decodeHeader w = .error (.invalidOpcode w) ↔ splitWord w = .error (.invalidOpcode w) := by
  unfold decodeHeader decodeHeaderWith
  cases hw : splitWord w with
  | error e => simp
  | ok f =>
    simp only [reduceCtorEq, iff_false]
    intro hmodes
    cases checkModes_error hmodes

/-- Settles O8: InvalidOpcode is the refusal of the split, whose three reasons are those stated, the codes of the ten opcodes
being the numbers of the list. -/
theorem refusedWordsNameTheirCause : Obligations.RefusedWordsNameTheirCause := by
  refine fun w => ⟨?_, fun _ => decodeHeader_error⟩
  have hcodes : (∀ op : Opcode, w.toNat % 100 ≠ op.code) ↔ w.toNat % 100 ∉ Opcode.all.map Opcode.code := by
    rw [← Opcode.exists_code_iff, not_exists]
  rw [decodeHeader_eq_invalidOpcode_iff, splitWord_eq_error_iff, hcodes]
  simp only [Opcode.all, List.map_cons, List.map_nil, Opcode.code, List.mem_cons, List.not_mem_nil, or_false]
  omega

/-! ### The policy `ignore` (R80) -/

/-- `checkModes` reads a word's digits only through the modes they name: with the same opcode and modes two words are accepted
with the same header, or both refused. -/
theorem checkModes_congr {policy : UnusedModePolicy} {w w' : Int} {f f' : Fields} (hop : f.op = f'.op)
    (h1 : modeOf policy f.op.kinds[0]? f.m1 = modeOf policy f'.op.kinds[0]? f'.m1)
    (h2 : modeOf policy f.op.kinds[1]? f.m2 = modeOf policy f'.op.kinds[1]? f'.m2)
    (h3 : modeOf policy f.op.kinds[2]? f.m3 = modeOf policy f'.op.kinds[2]? f'.m3) :
    (∃ h, checkModes policy w f = .ok h ∧ checkModes policy w' f' = .ok h) ∨
      (checkModes policy w f = .error (.invalidMode w) ∧ checkModes policy w' f' = .error (.invalidMode w')) := by
  cases hw : checkModes policy w f with
  | ok h =>
    obtain ⟨ho, hm1, hm2, hm3⟩ := checkModes_ok.1 hw
    exact .inl ⟨h, rfl, checkModes_ok.2 ⟨hop ▸ ho, h1 ▸ hm1, h2 ▸ hm2, h3 ▸ hm3⟩⟩
  | error e =>
    cases hw' : checkModes policy w' f' with
    | error e' => rw [checkModes_error hw, checkModes_error hw']; exact .inr ⟨rfl, rfl⟩
    | ok h =>
      obtain ⟨ho, hm1, hm2, hm3⟩ := checkModes_ok.1 hw'
      have hok : checkModes policy w f = .ok h := checkModes_ok.2 ⟨hop.trans ho, h1.trans hm1, h2.trans hm2, h3.trans hm3⟩
      rw [hok] at hw
      cases hw

/-- The fields of a word with 0 for the digits at the positions the opcode does not use. -/
def Fields.zeroUnused (f : Fields) : Fields :=
  ⟨f.op, if f.op.nparams < 1 then 0 else f.m1, if f.op.nparams < 2 then 0 else f.m2, if f.op.nparams < 3 then 0 else f.m3⟩

/-- Under `ignore` a digit at a position the opcode does not use names what the digit 0 names there. -/
theorem modeOf_ignore_unused (op : Opcode) (k m : Nat) :
    modeOf .ignore op.kinds[k]? m = modeOf .ignore op.kinds[k]? (if op.nparams < k + 1 then 0 else m) := by
  split
  · have hunused : op.kinds[k]? = none := List.getElem?_eq_none (Nat.le_of_lt_succ ‹_›)
    rw [hunused]
    cases m <;> rfl
  · rfl

/-- Where the opcode has a parameter the policy says nothing (R78, R79). -/
theorem modeOf_some_eq (policy policy' : UnusedModePolicy) :
    ∀ (k : Kind) (d : Nat), modeOf policy (some k) d = modeOf policy' (some k) d
  | .read, 0 | .read, 1 | .read, 2 | .read, _ + 3 => rfl
  | .write, 0 | .write, 1 | .write, 2 | .write, _ + 3 => rfl

/-- A digit that names a mode under `fault` names it under `ignore`. -/
theorem modeOf_ignore_of_fault {k : Option Kind} {d : Nat} {m : Mode} (h : modeOf .fault k d = some m) :
    modeOf .ignore k d = some m := by
  cases k with
  | none =>
    cases eq_position_of_modeOf_none h
    cases d <;> rfl
  | some k => rwa [modeOf_some_eq .ignore .fault]

/-- `decodeHeaderWith` of a number written from an opcode and three digits is the check of those digits. -/
theorem decodeHeaderWith_wordOfDigits (policy : UnusedModePolicy) (op : Opcode) {m1 m2 m3 : Nat} (h1 : m1 ≤ 9) (h2 : m2 ≤ 9)
    (h3 : m3 ≤ 9) :
    decodeHeaderWith policy (wordOfDigits m1 m2 m3 op.code) =
      checkModes policy (wordOfDigits m1 m2 m3 op.code) ⟨op, m1, m2, m3⟩ := by
  simp [decodeHeaderWith, splitWord_wordOfDigits op h1 h2 h3]

/-- Settles O9: the two words have the same opcode and their digits name the same modes; and what names a mode under `fault`
names it under `ignore`. -/
theorem ignorePolicyReadsUnusedDigitsAsZero : Obligations.IgnorePolicyReadsUnusedDigitsAsZero := by
  refine ⟨fun op m1 m2 m3 h1 h2 h3 => ?zeros, fun w h hw => ?legal⟩
  case zeros =>
    have hzero {m k : Nat} (hm : m ≤ 9) : (if op.nparams < k then 0 else m) ≤ 9 := by split <;> omega
    have hzeros := decodeHeaderWith_wordOfDigits .ignore op (hzero (k := 1) h1) (hzero (k := 2) h2) (hzero (k := 3) h3)
    change _ = checkModes .ignore _ (Fields.zeroUnused ⟨op, m1, m2, m3⟩) at hzeros
    rw [decodeHeaderWith_wordOfDigits _ op h1 h2 h3, hzeros]
    obtain ⟨h, hok, hok'⟩ | ⟨herr, herr'⟩ := checkModes_congr (f := ⟨op, m1, m2, m3⟩)
      (f' := Fields.zeroUnused ⟨op, m1, m2, m3⟩) rfl
      (modeOf_ignore_unused op 0 m1) (modeOf_ignore_unused op 1 m2) (modeOf_ignore_unused op 2 m3)
    · rw [hok, hok']
    · rw [herr, herr']
      trivial
  case legal =>
    obtain ⟨f, hf, hmodes⟩ := decodeHeader_ok.1 hw
    obtain ⟨hop, h1, h2, h3⟩ := checkModes_ok.1 hmodes
    have hignore : checkModes .ignore w f = .ok h :=
      checkModes_ok.2 ⟨hop, modeOf_ignore_of_fault h1, modeOf_ignore_of_fault h2, modeOf_ignore_of_fault h3⟩
    simp [decodeHeaderWith, hf, hignore]

/-- Settles O4: each word is split and checked by evaluation. -/
theorem wordsOfTheSpecDecode : Obligations.WordsOfTheSpecDecode := by
  unfold Obligations.WordsOfTheSpecDecode
  decide

end Sys2Proof

/-! ## Memory as a whole: the program image, equal memories, and cells one after another (R33, R59) -/

namespace Sys2Proof.Machine

/-- What a program image at `base` reads: 0 below it, then the words of the program in order, then 0. -/
theorem Memory.read_image (a : Nat) : ∀ (ws : List Int) (base : Nat),
    (Memory.image base ws).read a = if a < base then 0 else (ws[a - base]?).getD 0
  | [], base => by simp [Memory.image]
  | w :: ws, base => by
    have ih := Memory.read_image a ws (base + 1)
    have hcons : (Memory.image base (w :: ws)).read a = if a = base then w else (Memory.image (base + 1) ws).read a := by
      by_cases hw : w = 0
      · by_cases ha : a = base
        · subst ha
          simpa [Memory.image, hw] using ih
        · simp [Memory.image, hw, ha]
      · simp [Memory.image, hw]
    rw [hcons, ih]
    rcases lt_trichotomy a base with ha | rfl | ha
    · simp [ha, ha.ne, Nat.lt_succ_of_lt ha]
    · simp
    · obtain ⟨k, rfl⟩ := Nat.exists_eq_add_of_lt ha
      have hoff : base + k + 1 - base = k + 1 := by omega
      have hoff' : base + k + 1 - (base + 1) = k := by omega
      simp [ha.ne', ha.not_gt, hoff, hoff']

/-- Settles O11: the memory of a construction is the program image at address 0. -/
theorem constructedMemoryIsTheProgram : Obligations.ConstructedMemoryIsTheProgram := by
  intro program inputs mode a
  simp [Memory.read_image]

/-- The listed cell of lowest address is set, and what lies below it is not, so memories that read alike from `lo` on begin with
the same cell. -/
theorem Memory.eq_of_read_eq : ∀ {m m' : Memory} {lo : Nat}, m.wfFrom lo = true → m'.wfFrom lo = true →
    (∀ a, m.read a = m'.read a) → m = m'
  | [], [], _, _, _, _ => rfl
  | [], (b, w) :: m', _, _, hm', h => by
    obtain ⟨-, hw, -⟩ := Memory.wfFrom_cons_iff.1 hm'
    exact absurd (by simpa using h b) (Ne.symm hw)
  | (b, w) :: m, [], _, hm, _, h => by
    obtain ⟨-, hw, -⟩ := Memory.wfFrom_cons_iff.1 hm
    exact absurd (by simpa using h b) hw
  | (b, w) :: m, (b', w') :: m', _, hm, hm', h => by
    obtain ⟨-, hw, ht⟩ := Memory.wfFrom_cons_iff.1 hm
    obtain ⟨-, hw', ht'⟩ := Memory.wfFrom_cons_iff.1 hm'
    rcases lt_trichotomy b b' with hlt | rfl | hgt
    · have hunset : Memory.read m' b = 0 := Memory.read_eq_zero_of_lt ht' (Nat.lt_succ_of_lt hlt)
      exact absurd (by simpa [hlt.ne, hunset] using h b) hw
    · have hhead : w = w' := by simpa using h b
      have htail (a : Nat) : Memory.read m a = Memory.read m' a := by
        rcases Nat.lt_or_ge b a with ha | ha
        · simpa [ha.ne'] using h a
        · rw [Memory.read_eq_zero_of_lt ht (Nat.lt_succ_of_le ha), Memory.read_eq_zero_of_lt ht' (Nat.lt_succ_of_le ha)]
      rw [hhead, Memory.eq_of_read_eq ht ht' htail]
    · have hunset : Memory.read m b' = 0 := Memory.read_eq_zero_of_lt ht (Nat.lt_succ_of_lt hgt)
      exact absurd (by simpa [hgt.ne, hunset] using (h b').symm) hw'

/-- Settles O12: two canonical memories that read alike list the same cells one after another. -/
theorem memoriesThatReadAlikeAreEqual : Obligations.MemoriesThatReadAlikeAreEqual :=
  fun _ _ => Memory.eq_of_read_eq

/-- Each cell of a held sequence reads as the word at its place. -/
theorem read_of_holdsFrom {m : Memory} {w : Int} :
    ∀ {ws : List Int} {base k : Nat}, holdsFrom m base ws → ws[k]? = some w → m.read (base + k) = w
  | [], _, _, _, hk => by cases hk
  | _ :: _, _, 0, h, hk => by
    cases hk
    exact h.1
  | _ :: _, base, k + 1, h, hk => by
    rw [← Nat.succ_add_eq_add_succ]
    exact read_of_holdsFrom h.2 (by simpa using hk)

/-- Writing a sequence leaves the cells below it as they were. -/
theorem Memory.read_writeList_of_lt {a : Nat} :
    ∀ (ws : List Int) {base : Nat} {m : Memory}, m.wf = true → a < base → (m.writeList base ws).read a = m.read a
  | [], _, _, _, _ => rfl
  | w :: ws, base, m, hm, ha => by
    rw [Memory.writeList, Memory.read_writeList_of_lt ws (Memory.write_wf base w hm) (Nat.lt_succ_of_lt ha),
      Memory.read_write_of_ne hm w ha.ne]

/-- After a sequence is written its cells hold it: no later write of it touches an earlier cell. -/
theorem holdsFrom_writeList :
    ∀ (ws : List Int) {base : Nat} {m : Memory}, m.wf = true → holdsFrom (m.writeList base ws) base ws
  | [], _, _, _ => trivial
  | w :: ws, base, m, hm => by
    have hwf := Memory.write_wf base w hm
    refine ⟨?_, holdsFrom_writeList ws hwf⟩
    rw [Memory.writeList, Memory.read_writeList_of_lt ws hwf base.lt_succ_self, Memory.read_write_same hm]

end Sys2Proof.Machine

/-! ## The fetch, and the step at given cells (R100 to R105) -/

namespace Sys2Proof.Machine

/-- The parameter words at IP are those of the cells held there (R74, R105). -/
theorem paramWords_of_holdsFrom {s : State} {w : Int} {ps rest : List Int}
    (h : holdsFrom s.mem s.ip.toNat (w :: (ps ++ rest))) : paramWords s ps.length = ps := by
  refine List.ext_getElem (by simp [paramWords]) fun k hk hk' => ?_
  have hcell : (ps ++ rest)[k]? = some ps[k] := by
    rw [List.getElem?_append_left hk', List.getElem?_eq_getElem hk']
  simpa [paramWords] using read_of_holdsFrom h.2 hcell

/-- The fetch at cells that begin with an accepted word and its parameter words. -/
theorem fetch_of_holdsFrom {s : State} {ws rest : List Int} {i : Instr} (h : holdsFrom s.mem s.ip.toNat ws)
    (hdecode : decode ws = .ok (i, rest)) : fetch s = .ok i := by
  obtain ⟨w, hd, ps, rfl, hw, hlen, rfl⟩ := decode_cases hdecode
  have hread : s.mem.read s.ip.toNat = w := h.1
  simp [fetch, hread, hw, ← hlen, paramWords_of_holdsFrom h]

/-- The fetch at a word that is refused. -/
theorem fetch_of_refused {s : State} {e : WordError} (h : decodeHeader (s.mem.read s.ip.toNat) = .error e) :
    fetch s = .error e := by
  simp [fetch, h]

/-- What a state inside a run needs for a cycle to get as far as the fetch (R102, R175, R207). -/
structure AtFetch (s : State) : Prop where
  active : s.active = true
  below_limit : s.maxOut ≠ some s.outCount
  ip_nonneg : 0 ≤ s.ip

theorem AtFetch.step_of_ok {s : State} {i : Instr} (hs : AtFetch s) (h : fetch s = .ok i) : step s = exec i s := by
  simp [step, engineStep, hs.active, cycle, limitReached, hs.below_limit, hs.ip_nonneg.not_gt, h]

theorem AtFetch.step_of_error {s : State} {e : WordError} (hs : AtFetch s) (h : fetch s = .error e) :
    step s = .next (raiseWordError s e) := by
  simp [step, engineStep, hs.active, cycle, limitReached, hs.below_limit, hs.ip_nonneg.not_gt, h]

/-- At cells that decode to an instruction the step is its meaning. -/
theorem AtFetch.step_of_holdsFrom {s : State} {ws rest : List Int} {i : Instr} (hs : AtFetch s)
    (h : holdsFrom s.mem s.ip.toNat ws) (hdecode : decode ws = .ok (i, rest)) : step s = exec i s :=
  hs.step_of_ok (fetch_of_holdsFrom h hdecode)

/-- Settles O1: the fetch gives the instruction that the cells decode to, and the step is its meaning. -/
theorem stepRunsTheDecodedInstruction : Obligations.StepRunsTheDecodedInstruction :=
  fun _ _ _ _ hactive hlimit hip h hdecode => AtFetch.step_of_holdsFrom ⟨hactive, hlimit, hip⟩ h hdecode

/-- The word of an ill-formed instruction is refused as InvalidMode (R79): its destination's digit is 1. -/
theorem decodeHeader_headWord_of_not_wellFormed {i : Instr} (h : i.wellFormed = false) :
    decodeHeader i.headWord = .error (.invalidMode i.headWord) := by
  have hdigit (k : Nat) : (i.modeAt k).digit ≤ 9 := (i.modeAt k).digit_le_nine
  rw [Instr.headWord_eq, decodeHeader_wordOfDigits _ (hdigit 0) (hdigit 1) (hdigit 2)]
  apply checkModes_of_none
  cases i with
  | add _ _ dst | mul _ _ dst | lt _ _ dst | eq _ _ dst =>
    have hdst : dst.mode = .immediate := by simpa [Instr.wellFormed, Param.legalFor] using h
    simp [Instr.modeAt, Instr.params, Instr.opcode, Opcode.kinds, hdst, Mode.digit, modeOf]
  | inp dst =>
    have hdst : dst.mode = .immediate := by simpa [Instr.wellFormed, Param.legalFor] using h
    simp [Instr.modeAt, Instr.params, Instr.opcode, Opcode.kinds, hdst, Mode.digit, modeOf]
  | out | jt | jf | arb | hlt => cases h

/-- The meaning of an ill-formed instruction is InvalidMode with its word (R79, R104). -/
theorem exec_of_not_wellFormed {i : Instr} (s : State) (h : i.wellFormed = false) :
    exec i s = .next (s.raiseFault .invalidMode i.headWord) := by
  cases i with
  | add | mul | lt | eq | inp => exact withLegalModes_of_not_wellFormed h
  | out | jt | jf | arb | hlt => cases h

/-- Settles O2: the cells of a well-formed instruction decode to it; the word of an ill-formed one is refused, and the fault the
cycle then raises is the one that its meaning raises. -/
theorem stepRunsTheEncodedInstruction : Obligations.StepRunsTheEncodedInstruction := by
  intro s i hactive hlimit hip h
  have hs : AtFetch s := ⟨hactive, hlimit, hip⟩
  cases hwf : i.wellFormed with
  | true => exact hs.step_of_holdsFrom h (by simpa using decode_encode_append hwf [])
  | false =>
    have hread : s.mem.read s.ip.toNat = i.headWord := h.1
    have hrefused : decodeHeader (s.mem.read s.ip.toNat) = .error (.invalidMode i.headWord) := by
      rw [hread, decodeHeader_headWord_of_not_wellFormed hwf]
    rw [hs.step_of_error (fetch_of_refused hrefused), exec_of_not_wellFormed s hwf]
    rfl

/-- At rest without a record a step leaves the state as it is (log entry 3). -/
theorem step_at_rest {s : State} (hrest : s.active = false) (hfault : s.fault = none) : step s = .next s := by
  simp [step, engineStep, hrest, hfault]

/-- At rest with a record a step answers the latched fault (log entry 5). -/
theorem step_of_latched {s : State} {f : FaultRecord} (hrest : s.active = false) (hfault : s.fault = some f) :
    step s = .fault (.latched f.cause) := by
  simp [step, engineStep, hrest, hfault]

/-- A word the decoder refuses is the word its refusal records, and the step raises the cause with it. -/
theorem AtFetch.step_of_refused {s : State} {e : WordError} (hs : AtFetch s)
    (h : decodeHeader (s.mem.read s.ip.toNat) = .error e) :
    (e = .invalidOpcode (s.mem.read s.ip.toNat) ∨ e = .invalidMode (s.mem.read s.ip.toNat)) ∧
      step s = .next (raiseWordError s e) :=
  ⟨decodeHeader_error h, hs.step_of_error (fetch_of_refused h)⟩

/-- Settles O3: the checks of the cycle in their order, each with the earlier ones passed, and the two answers at rest. -/
theorem stepChecksInTheOrderOfTheCycle : Obligations.StepChecksInTheOrderOfTheCycle := by
  intro s
  refine ⟨step_of_output_limit, step_of_negative_ip, fun w hactive hlimit hip h => ?opcode,
    fun w hactive hlimit hip h => ?mode, step_at_rest, fun f => step_of_latched⟩
  case opcode =>
    obtain ⟨he | he, hstep⟩ := AtFetch.step_of_refused ⟨hactive, hlimit, hip⟩ h
    · exact ⟨WordError.invalidOpcode.inj he, hstep⟩
    · cases he
  case mode =>
    obtain ⟨he | he, hstep⟩ := AtFetch.step_of_refused ⟨hactive, hlimit, hip⟩ h
    · cases he
    · exact ⟨WordError.invalidMode.inj he, hstep⟩

/-- A placed word stands where the next step fetches, with its parameter words of 0 (log entry 8). -/
theorem holdsFrom_placeInstruction {s : State} (h : s.mem.wf = true) (w : Int) :
    holdsFrom (placeInstruction s w).mem (placeInstruction s w).ip.toNat [w, 0, 0, 0] :=
  holdsFrom_writeList _ h

theorem atFetch_placeInstruction (s : State) (w : Int) : AtFetch (placeInstruction s w) where
  active := rfl
  below_limit := nofun
  ip_nonneg := by
    change (0 : Int) ≤ if s.ip < 0 then 0 else s.ip
    split <;> omega

/-- Settles O60: the placed cells decode to the instruction read from the word, and the state is at its fetch. -/
theorem placedWordIsTheNextInstructionRun : Obligations.PlacedWordIsTheNextInstructionRun := by
  intro s nbits w i hwf htable
  unfold decodeTableWord at htable
  split at htable
  · rename_i rest hdecode
    cases htable
    exact (atFetch_placeInstruction s _).step_of_holdsFrom (holdsFrom_placeInstruction hwf _) hdecode
  · cases htable

end Sys2Proof.Machine

/-! ## The destination of a write parameter (R107, R108), and the immediate destination (R79) -/

namespace Sys2Proof.Machine

/-- A write parameter that passes the sign check is its effective address. -/
theorem resolveWrite_of_nonneg {s : State} {p : Param} {a : Int} (h : effectiveAddress s p = some a) (ha : 0 ≤ a) :
    resolveWrite s p = .ok a.toNat := by
  have hcheck : checkAddress a = .ok a.toNat := checkAddress_ok.2 ⟨ha, rfl⟩
  simp [resolveWrite, h, hcheck]

/-- A write parameter whose effective address is negative names that address. -/
theorem resolveWrite_of_neg {s : State} {p : Param} {a : Int} (h : effectiveAddress s p = some a) (ha : a < 0) :
    resolveWrite s p = .error a := by
  have hcheck : checkAddress a = .error a := checkAddress_error.2 ⟨ha, rfl⟩
  simp [resolveWrite, h, hcheck]

/-- Settles O14: each mode fixes the effective address, and an ill-formed instruction's meaning is InvalidMode. -/
theorem writeParametersResolveByMode : Obligations.WriteParametersResolveByMode := by
  refine ⟨fun s p => ?_, fun i s => exec_of_not_wellFormed s⟩
  have hpos : effectiveAddress s ⟨.position, p⟩ = some p := rfl
  have hrel : effectiveAddress s ⟨.relative, p⟩ = some (s.rb + p) := rfl
  exact ⟨resolveWrite_of_neg hpos, resolveWrite_of_nonneg hpos, resolveWrite_of_neg hrel, resolveWrite_of_nonneg hrel⟩

end Sys2Proof.Machine

/-! ## HLT (R161), and the outcomes of IN (R140) -/

namespace Sys2Proof.Machine

/-- Settles O23: HLT has no parameter, so any digit but 0 is refused; its meaning is the halt and the advance. -/
theorem hltHaltsTheMachine : Obligations.HltHaltsTheMachine := by
  refine ⟨rfl, fun _ => rfl, fun m1 m2 m3 h1 h2 h3 hbad => ?_⟩
  rw [show 99 = Opcode.code .hlt from rfl, decodeHeader_wordOfDigits .hlt h1 h2 h3]
  apply checkModes_of_none
  obtain hm1 | hm2 | hm3 := hbad
  · exact .inl (modeOf_fault_unused_of_ne_zero hm1)
  · exact .inr (.inl (modeOf_fault_unused_of_ne_zero hm2))
  · exact .inr (.inr (modeOf_fault_unused_of_ne_zero hm3))

/-- Below the input limit a queued value is taken first, in every variant (R140, R142). -/
theorem input_of_queued {s : State} {v : Int} {rest : List Int} (d : Nat) (hlimit : s.maxIn ≠ some s.inCount)
    (hqueue : s.inq = v :: rest) :
    input d s = .next ((((s.takeQueued rest).storeCell d v).countInput).advance 2) := by
  simp [input, inputSource, limitReached, hlimit, hqueue]

/-- Below the input limit an empty queue of the defaulted variant gives the default (R143). -/
theorem input_of_default {s : State} {v : Int} (d : Nat) (hlimit : s.maxIn ≠ some s.inCount) (hqueue : s.inq = [])
    (hmode : s.inputMode = .defaulted v) :
    input d s = .next (((s.takeDefault.storeCell d v).countInput).advance 2) := by
  simp [input, inputSource, limitReached, hlimit, hqueue, hmode]

/-- Below the input limit an empty queue of the interactive variant holds (R144). -/
theorem input_of_interactive {s : State} (d : Nat) (hlimit : s.maxIn ≠ some s.inCount) (hqueue : s.inq = [])
    (hmode : s.inputMode = .interactive) : input d s = .next s := by
  simp [input, inputSource, limitReached, hlimit, hqueue, hmode]

theorem wellFormed_inp_iff {dst : Param} : (Instr.inp dst).wellFormed = true ↔ dst.mode ≠ .immediate := by
  simp [Instr.wellFormed, Param.legalFor]

theorem encode_inp (dst : Param) : encode (.inp dst) = [wordOfDigits dst.mode.digit 0 0 3, dst.word] := rfl

/-- Settles O24: the destination resolves and the oldest queued value is taken. -/
theorem inTakesTheOldestQueuedValue : Obligations.InTakesTheOldestQueuedValue := by
  refine ⟨encode_inp, fun dst s d v rest hdst hd hlimit hqueue => ?_⟩
  rw [exec_inp_of_resolved hdst hd, input_of_queued d hlimit hqueue]
  rfl

/-- Settles O25: the destination resolves and the default is taken. -/
theorem inTakesTheDefaultAndIsIdle : Obligations.InTakesTheDefaultAndIsIdle := by
  intro dst s d v hdst hd hlimit hqueue hmode
  rw [exec_inp_of_resolved hdst hd, input_of_default d hlimit hqueue hmode]
  rfl

/-- Settles O27: the limit is looked at after the destination and before the queue; an illegal destination comes first. -/
theorem inPausesAtTheLimitBeforeTheQueue : Obligations.InPausesAtTheLimitBeforeTheQueue := by
  refine ⟨fun dst s d hdst hd hlimit => ?limit, fun dst s e hdst hd => ?negative, fun dst s hdst => ?immediate⟩
  case limit =>
    rw [exec_inp_of_resolved hdst hd, input_of_limit hlimit]
    rfl
  case negative => rw [exec, execIn, withLegalModes_of_wellFormed (wellFormed_inp_iff.2 hdst), withDst_of_error hd]
  case immediate =>
    obtain ⟨mode, word⟩ := dst
    cases hdst
    exact exec_of_not_wellFormed s rfl

end Sys2Proof.Machine

/-! ## Everything an instruction and a step can do, said once (R100, R110) -/

namespace Sys2Proof.Machine

/-- Whether the record of a fault just raised fits: what it says fits its cause, and InputExhausted is one of an empty queue in
the queued variant. -/
theorem faultFits_raiseFault_iff {s : State} {c : Cause} {x : Int} :
    (s.raiseFault c x).faultFits = true ↔
      FaultRecord.fits ⟨c, s.ip, x⟩ = true ∧ (c = .inputExhausted → s.inputMode = .queued ∧ s.inq = []) := by
  change (FaultRecord.fits ⟨c, s.ip, x⟩ && decide (s.ip = s.ip) &&
    (decide (c ≠ .inputExhausted) || (decide (s.inputMode = .queued) && s.inq.isEmpty))) = true ↔ _
  simp [or_iff_not_imp_left]

theorem faultFits_negativeAddress (s : State) {x : Int} (hx : x < 0) : (s.raiseFault .negativeAddress x).faultFits = true :=
  faultFits_raiseFault_iff.2 ⟨by simpa [FaultRecord.fits] using hx, nofun⟩

theorem faultFits_invalidMode (s : State) {w : Int} (h : decodeHeader w = .error (.invalidMode w)) :
    (s.raiseFault .invalidMode w).faultFits = true :=
  faultFits_raiseFault_iff.2 ⟨by simpa [FaultRecord.fits] using h, nofun⟩

theorem faultFits_invalidOpcode (s : State) {w : Int} (h : decodeHeader w = .error (.invalidOpcode w)) :
    (s.raiseFault .invalidOpcode w).faultFits = true :=
  faultFits_raiseFault_iff.2 ⟨by simpa [FaultRecord.fits] using h, nofun⟩

theorem faultFits_inputExhausted {s : State} (hmode : s.inputMode = .queued) (hqueue : s.inq = []) :
    (s.raiseFault .inputExhausted 0).faultFits = true :=
  faultFits_raiseFault_iff.2 ⟨rfl, fun _ => ⟨hmode, hqueue⟩⟩

/-- A record that fits has a cause that is latched (R200). -/
theorem latches_of_faultFits {s : State} {c : Cause} {x : Int} (h : (s.raiseFault c x).faultFits = true) :
    c.latches = true := by
  obtain ⟨hfits, -⟩ := faultFits_raiseFault_iff.1 h
  cases c with
  | invalidOpcode | invalidMode | negativeAddress | inputExhausted => rfl
  | badDiagnostic => cases hfits

/-- Everything an instruction can do, a constructor for each outcome: a fault with a fitting record; the store of a result; the
five outcomes of IN but its fault; the effects of OUT, the jumps, ARB and HLT. -/
inductive Executes (s : State) : Instr → State → Prop
  | fault {i : Instr} (c : Cause) (x : Int) (hfits : (s.raiseFault c x).faultFits = true) :
      Executes s i (s.raiseFault c x)
  | store {i : Instr} (d : Nat) (v : Int) (hop : i.opcode ∈ ([.add, .mul, .lt, .eq] : List Opcode)) :
      Executes s i ((s.storeCell d v).advance 4)
  | inputLimit {dst : Param} (hlimit : s.maxIn = some s.inCount) : Executes s (.inp dst) (s.pause .pausedOnInputCount)
  | inputQueued {dst : Param} (d : Nat) (v : Int) (rest : List Int) (hd : resolveWrite s dst = .ok d)
      (hlimit : s.maxIn ≠ some s.inCount) (hqueue : s.inq = v :: rest) :
      Executes s (.inp dst) ((((s.takeQueued rest).storeCell d v).countInput).advance 2)
  | inputDefault {dst : Param} (d : Nat) (v : Int) (hd : resolveWrite s dst = .ok d)
      (hlimit : s.maxIn ≠ some s.inCount) (hqueue : s.inq = []) (hmode : s.inputMode = .defaulted v) :
      Executes s (.inp dst) (((s.takeDefault.storeCell d v).countInput).advance 2)
  | inputHold {dst : Param} (hqueue : s.inq = []) (hmode : s.inputMode = .interactive) : Executes s (.inp dst) s
  | output {a : Param} (v : Int) : Executes s (.out a) ((s.appendOutput v).advance 2)
  | jump {i : Instr} (target : Int) (hop : i.opcode ∈ ([.jt, .jf] : List Opcode)) : Executes s i (s.jumpTo target)
  | noJump {i : Instr} (hop : i.opcode ∈ ([.jt, .jf] : List Opcode)) : Executes s i (s.advance 3)
  | adjustBase {a : Param} (v : Int) : Executes s (.arb a) ((s.adjustBase v).advance 2)
  | halt : Executes s .hlt (s.halt.advance 1)

theorem storeResult_executes {i : Instr} {f : Int → Int → Int} {a b dst : Param} {s t : State}
    (hop : i.opcode ∈ ([.add, .mul, .lt, .eq] : List Opcode)) (h : storeResult i f a b dst s = .next t) :
    Executes s i t := by
  obtain ⟨hwf, rfl⟩ | ⟨x, hx, rfl⟩ | ⟨_, _, d, -, -, -, -, rfl⟩ := storeResult_cases h
  · exact .fault _ _ (faultFits_invalidMode s (decodeHeader_headWord_of_not_wellFormed hwf))
  · exact .fault _ _ (faultFits_negativeAddress s hx)
  · exact .store _ _ hop

theorem jumpIf_executes {i : Instr} {test : Int → Bool} {c g : Param} {s t : State}
    (hop : i.opcode ∈ ([.jt, .jf] : List Opcode)) (h : jumpIf test c g s = .next t) : Executes s i t := by
  obtain ⟨x, hx, rfl⟩ | ⟨_, y, -, -, ⟨-, rfl⟩ | ⟨-, rfl⟩⟩ := jumpIf_cases h
  · exact .fault _ _ (faultFits_negativeAddress s hx)
  · exact .jump _ hop
  · exact .noJump hop

theorem input_executes {dst : Param} {d : Nat} {s t : State} (hd : resolveWrite s dst = .ok d) (h : input d s = .next t) :
    Executes s (.inp dst) t := by
  by_cases hlimit : s.maxIn = some s.inCount
  · rw [input_of_limit hlimit] at h
    cases h
    exact .inputLimit hlimit
  · obtain ⟨hreached, -⟩ | ⟨v, rest, hqueue, rfl⟩ | ⟨hqueue, hmode, rfl⟩ | ⟨v, hqueue, hmode, rfl⟩ | ⟨hqueue, hmode, rfl⟩ :=
      input_cases h
    · exact absurd hreached hlimit
    · exact .inputQueued _ _ _ hd hlimit hqueue
    · exact .fault _ _ (faultFits_inputExhausted hmode hqueue)
    · exact .inputDefault _ _ hd hlimit hqueue hmode
    · exact .inputHold hqueue hmode

theorem execIn_executes {dst : Param} {s t : State} (h : execIn dst s = .next t) : Executes s (.inp dst) t := by
  obtain ⟨hwf, rfl⟩ | ⟨x, hx, rfl⟩ | ⟨d, -, hd, hinput⟩ := execIn_cases h
  · exact .fault _ _ (faultFits_invalidMode s (decodeHeader_headWord_of_not_wellFormed hwf))
  · exact .fault _ _ (faultFits_negativeAddress s hx)
  · exact input_executes hd hinput

theorem execOut_executes {a : Param} {s t : State} (h : execOut a s = .next t) : Executes s (.out a) t := by
  obtain ⟨x, hx, rfl⟩ | ⟨v, -, rfl⟩ := execOut_cases h
  · exact .fault _ _ (faultFits_negativeAddress s hx)
  · exact .output _

theorem execArb_executes {a : Param} {s t : State} (h : execArb a s = .next t) : Executes s (.arb a) t := by
  obtain ⟨x, hx, rfl⟩ | ⟨v, -, rfl⟩ := execArb_cases h
  · exact .fault _ _ (faultFits_negativeAddress s hx)
  · exact .adjustBase _

/-- The next state of an instruction is one of its outcomes: one course per constructor. -/
theorem exec_executes {i : Instr} {s t : State} (h : exec i s = .next t) : Executes s i t := by
  cases i with
  | add | mul | lt | eq => exact storeResult_executes (by simp [Instr.opcode]) h
  | inp dst => exact execIn_executes h
  | out a => exact execOut_executes h
  | jt | jf => exact jumpIf_executes (by simp [Instr.opcode]) h
  | arb a => exact execArb_executes h
  | hlt =>
    cases h
    exact .halt

/-- Everything a step can do: rest, the pause at the output limit, a fault before any instruction, or an instruction. -/
inductive Steps (s : State) : State → Prop
  | rest (hrest : s.active = false) : Steps s s
  | outputLimit (hactive : s.active = true) (hlimit : s.maxOut = some s.outCount) : Steps s (s.pause .pausedOnOutputCount)
  | fault (c : Cause) (x : Int) (hactive : s.active = true) (hfits : (s.raiseFault c x).faultFits = true) :
      Steps s (s.raiseFault c x)
  | execute {t : State} (i : Instr) (hs : AtFetch s) (hi : fetch s = .ok i) (hexec : exec i s = .next t) : Steps s t

/-- The next state of a step is one of its outcomes. -/
theorem step_steps {s t : State} (h : step s = .next t) : Steps s t := by
  unfold step at h
  obtain ⟨hactive, hcycle⟩ | ⟨-, _, -, hfault⟩ | ⟨hrest, -, hself⟩ := engineStep_cases s
  · rw [hcycle] at h
    obtain ⟨hlimit, hc⟩ | ⟨-, hip, hc⟩ | ⟨e, -, -, hrefused, hc⟩ | ⟨i, hlimit, hip, hi, hc⟩ := cycle_cases s <;> rw [hc] at h
    · cases h
      exact .outputLimit hactive hlimit
    · cases h
      exact .fault _ _ hactive (faultFits_negativeAddress s hip)
    · cases h
      obtain rfl | rfl := decodeHeader_error hrefused
      · exact .fault _ _ hactive (faultFits_invalidOpcode s hrefused)
      · exact .fault _ _ hactive (faultFits_invalidMode s hrefused)
    · exact .execute i ⟨hactive, hlimit, hip⟩ hi h
  · rw [hfault] at h
    cases h
  · rw [hself] at h
    cases h
    exact .rest hrest

/-- At rest a step that has a next state has changed nothing. -/
theorem step_eq_of_rest {s t : State} (hrest : s.active = false) (h : step s = .next t) : t = s := by
  cases step_steps h with
  | rest => rfl
  | outputLimit hactive | fault _ _ hactive => simp [hrest] at hactive
  | execute i hs => exact absurd hs.active (by simp [hrest])

end Sys2Proof.Machine

/-! ## Every instruction answers a next state (R174, R208) -/

namespace Sys2Proof.Machine

theorem withLegalModes_answers {i : Instr} {s : State} {k : Answer} (h : ∃ t, k = .next t) :
    ∃ t, withLegalModes i s k = .next t := by
  unfold withLegalModes
  split
  · exact h
  · exact ⟨_, rfl⟩

theorem withRead_answers {p : Param} {s : State} {k : Int → Answer} (h : ∀ v, ∃ t, k v = .next t) :
    ∃ t, withRead p s k = .next t := by
  unfold withRead
  split
  · exact h _
  · exact ⟨_, rfl⟩

theorem withDst_answers {p : Param} {s : State} {k : Nat → Answer} (h : ∀ d, ∃ t, k d = .next t) :
    ∃ t, withDst p s k = .next t := by
  unfold withDst
  split
  · exact h _
  · exact ⟨_, rfl⟩

theorem storeResult_answers (i : Instr) (f : Int → Int → Int) (a b dst : Param) (s : State) :
    ∃ t, storeResult i f a b dst s = .next t :=
  withLegalModes_answers (withRead_answers fun _ => withRead_answers fun _ => withDst_answers fun _ => ⟨_, rfl⟩)

theorem jumpIf_answers (test : Int → Bool) (c g : Param) (s : State) : ∃ t, jumpIf test c g s = .next t :=
  withRead_answers fun _ => withRead_answers fun _ => ⟨_, rfl⟩

theorem input_answers (d : Nat) (s : State) : ∃ t, input d s = .next t := by
  unfold input
  split <;> exact ⟨_, rfl⟩

/-- Settles O29: a shared step of the course answers a fault as a next state, and so does what follows it. -/
theorem everyInstructionAnswersANextState : Obligations.EveryInstructionAnswersANextState := by
  intro i s
  cases i with
  | add | mul | lt | eq => exact storeResult_answers _ _ _ _ _ s
  | inp dst => exact withLegalModes_answers (withDst_answers fun d => input_answers d s)
  | out | arb => exact withRead_answers fun _ => ⟨_, rfl⟩
  | jt | jf => exact jumpIf_answers _ _ _ s
  | hlt => exact ⟨_, rfl⟩

/-- Inside a run every step has a next state. -/
theorem step_answers {s : State} (hactive : s.active = true) : ∃ t, step s = .next t := by
  have hstep : step s = cycle s := by simp [step, engineStep, hactive]
  rw [hstep]
  obtain ⟨-, hc⟩ | ⟨-, -, hc⟩ | ⟨_, -, -, -, hc⟩ | ⟨i, -, -, -, hc⟩ := cycle_cases s <;> rw [hc]
  · exact ⟨_, rfl⟩
  · exact ⟨_, rfl⟩
  · exact ⟨_, rfl⟩
  · exact everyInstructionAnswersANextState i s

end Sys2Proof.Machine

/-! ## Frames: what the instructions leave unchanged (R57, R209) -/

namespace Sys2Proof.Machine

theorem raisedFault_raiseFault (s : State) (c : Cause) (x : Int) : RaisedFault s (s.raiseFault c x) := ⟨c, x, rfl⟩

/-- A store at one address leaves the cells at the others. -/
theorem read_storeCell_of_ne {s : State} {d n : Nat} {v : Int} (hwf : s.mem.wf = true) (hn : n ≠ d) :
    (s.storeCell d v).mem.read n = s.mem.read n :=
  Memory.read_write_of_ne hwf v hn

/-- The common course of ADD, MUL, LT, EQ: a fault that changes nothing else, or one store and the advance of IP. -/
theorem storeResult_frame {i : Instr} {f : Int → Int → Int} {a b dst : Param} {s t : State}
    (h : storeResult i f a b dst s = .next t) :
    RaisedFault s t ∨ ∃ d v, resolveWrite s dst = .ok d ∧ t = (s.storeCell d v).advance 4 := by
  obtain ⟨-, rfl⟩ | ⟨_, -, rfl⟩ | ⟨_, _, d, -, -, -, hd, rfl⟩ := storeResult_cases h
  · exact .inl (raisedFault_raiseFault ..)
  · exact .inl (raisedFault_raiseFault ..)
  · exact .inr ⟨d, _, hd, rfl⟩

/-- Settles O30: the four share one course, whose two outcomes keep all that is stated. -/
theorem frameOfTheStoringInstructions : Obligations.FrameOfTheStoringInstructions := by
  intro a b dst s t i hwf hi h
  have hframe : RaisedFault s t ∨ ∃ d v, resolveWrite s dst = .ok d ∧ t = (s.storeCell d v).advance 4 := by
    obtain rfl | rfl | rfl | rfl := hi <;> exact storeResult_frame h
  obtain ⟨c, x, rfl⟩ | ⟨d, v, hd, rfl⟩ := hframe
  · simp [RaisedFault]
  · refine ⟨rfl, rfl, rfl, rfl, rfl, rfl, rfl, rfl, rfl, .inl ⟨rfl, rfl, rfl⟩, fun n hn => ?_⟩
    exact read_storeCell_of_ne hwf (hn d hd)

/-- Settles O31: the outcomes of IN one by one; those that complete store at the resolved destination alone. -/
theorem frameOfTheInputInstruction : Obligations.FrameOfTheInputInstruction := by
  intro dst s t hwf h
  cases exec_executes h with
  | fault c x hfits => simp [RaisedFault, State.raiseFault]
  | store d v hop => simp [Instr.opcode] at hop
  | inputLimit hlimit => simp [State.pause]
  | inputQueued d v rest hd hlimit hqueue =>
    refine ⟨rfl, rfl, rfl, rfl, rfl, rfl, .inl ⟨rfl, rfl, rfl⟩, .inr ⟨v, hqueue⟩, .inr rfl, by simp, fun n hn => ?_⟩
    exact read_storeCell_of_ne (s := s.takeQueued rest) hwf (hn d hd)
  | inputDefault d v hd hlimit hqueue hmode =>
    refine ⟨rfl, rfl, rfl, rfl, rfl, rfl, .inl ⟨rfl, rfl, rfl⟩, .inl rfl, .inr rfl, by simp, fun n hn => ?_⟩
    exact read_storeCell_of_ne (s := s.takeDefault) hwf (hn d hd)
  | inputHold hqueue hmode => simp [SameControl]
  | jump target hop => simp [Instr.opcode] at hop
  | noJump hop => simp [Instr.opcode] at hop

/-- Settles O32: the outcomes of the five one by one; the others belong to instructions that store. -/
theorem frameOfTheInstructionsThatStoreNothing : Obligations.FrameOfTheInstructionsThatStoreNothing := by
  intro i s t h hi
  cases exec_executes h with
  | fault c x hfits => simp [RaisedFault, State.raiseFault]
  | store d v hop => obtain ⟨_, rfl⟩ | ⟨_, _, rfl⟩ | ⟨_, _, rfl⟩ | ⟨_, rfl⟩ | rfl := hi <;> simp [Instr.opcode] at hop
  | inputLimit | inputQueued | inputDefault | inputHold => simp at hi
  | output v | jump target hop | noJump hop | adjustBase v | halt => simp [SameControl]

/-- Settles O37: an input is counted exactly by the two outcomes of IN that complete, and these alone write IDLE. -/
theorem idleTellsHowTheLastInputCame : Obligations.IdleTellsHowTheLastInputCame := by
  intro i s t h
  cases exec_executes h with
  | inputQueued d v rest hd hlimit hqueue => simp [hqueue]
  | inputDefault d v hd hlimit hqueue hmode => simp [hqueue, hmode]
  | fault | store | inputLimit | inputHold | output | jump | noJump | adjustBase | halt => simp

end Sys2Proof.Machine

/-! ## Control: how a step leaves STATUS, ACTIVE and FAULT (R191, R208) -/

namespace Sys2Proof.Machine

/-- How a step leaves the control state: as it was, or the run ends in one of the four ways, each with its reason. -/
inductive StepOutcome (s : State) : State → Prop
  | goesOn {t : State} (hcontrol : SameControl s t) : StepOutcome s t
  | pausesOnOutput (hlimit : s.maxOut = some s.outCount) : StepOutcome s (s.pause .pausedOnOutputCount)
  | pausesOnInput (dst : Param) (hs : AtFetch s) (hi : fetch s = .ok (.inp dst)) (hlimit : s.maxIn = some s.inCount) :
      StepOutcome s (s.pause .pausedOnInputCount)
  | faults (c : Cause) (x : Int) (hfits : (s.raiseFault c x).faultFits = true) : StepOutcome s (s.raiseFault c x)
  | halts (hi : fetch s = .ok .hlt) : StepOutcome s (s.halt.advance 1)

theorem AtFetch.outcome {s t : State} {i : Instr} (hs : AtFetch s) (hi : fetch s = .ok i) (h : Executes s i t) :
    StepOutcome s t := by
  cases h with
  | fault c x hfits => exact .faults c x hfits
  | inputLimit hlimit => exact .pausesOnInput _ hs hi hlimit
  | halt => exact .halts hi
  | store | inputQueued | inputDefault | inputHold | output | jump | noJump | adjustBase => exact .goesOn ⟨rfl, rfl, rfl⟩

theorem step_outcome {s t : State} (h : step s = .next t) : StepOutcome s t := by
  cases step_steps h with
  | rest => exact .goesOn ⟨rfl, rfl, rfl⟩
  | outputLimit hactive hlimit => exact .pausesOnOutput hlimit
  | fault c x hactive hfits => exact .faults c x hfits
  | execute i hs hi hexec => exact hs.outcome hi (exec_executes hexec)

/-- Settles O33: of the outcomes of a step only fault entry leaves a machine Faulted that was not, and the record it makes
fits. -/
theorem faultsArePrecise : Obligations.FaultsArePrecise := by
  intro s t h hs ht
  cases step_outcome h with
  | goesOn hcontrol => exact absurd (hcontrol.1.symm.trans ht) hs
  | pausesOnOutput | pausesOnInput | halts => cases ht
  | faults c x hfits => exact ⟨c, x, latches_of_faultFits hfits, rfl⟩

/-- FAULT is written by fault entry alone, which changes nothing else but STATUS and ACTIVE. -/
theorem step_fault_eq_or_raised {s t : State} (h : step s = .next t) : t.fault = s.fault ∨ RaisedFault s t := by
  cases step_outcome h with
  | goesOn hcontrol => exact .inl hcontrol.2.2
  | pausesOnOutput | pausesOnInput | halts => exact .inl rfl
  | faults c x hfits => exact .inr (raisedFault_raiseFault s c x)

end Sys2Proof.Machine

/-! ## Writers: which move writes which piece of state (R20) -/

namespace Sys2Proof.Machine

theorem exec_mem_eq_or_stores {i : Instr} {s t : State} (h : exec i s = .next t) :
    t.mem = s.mem ∨ i.opcode ∈ ([.add, .mul, .inp, .lt, .eq] : List Opcode) := by
  cases exec_executes h with
  | store d v hop => 
    have hstoring : ([.add, .mul, .lt, .eq] : List Opcode) ⊆ [.add, .mul, .inp, .lt, .eq] := by decide
    exact .inr (hstoring hop)
  | inputLimit | inputQueued | inputDefault | inputHold => exact .inr (by simp [Instr.opcode])
  | fault | output | jump | noJump | adjustBase | halt => exact .inl rfl

/-- An instruction keeps the queue, IDLE and IN_COUNT, or it is an IN that takes at most the head of the queue. -/
theorem exec_inputs_cases {i : Instr} {s t : State} (h : exec i s = .next t) :
    (t.inq = s.inq ∧ t.idle = s.idle ∧ t.inCount = s.inCount) ∨
      ((∃ dst, i = .inp dst) ∧ (t.inq = s.inq ∨ ∃ v, s.inq = v :: t.inq)) := by
  cases exec_executes h with
  | inputQueued d v rest hd hlimit hqueue => exact .inr ⟨⟨_, rfl⟩, .inr ⟨v, hqueue⟩⟩
  | inputDefault => exact .inr ⟨⟨_, rfl⟩, .inl rfl⟩
  | fault | store | inputLimit | inputHold | output | jump | noJump | adjustBase | halt => exact .inl ⟨rfl, rfl, rfl⟩

/-- The limits and the input variant are the same in two states. -/
abbrev SameLimits (s t : State) : Prop := t.maxOut = s.maxOut ∧ t.maxIn = s.maxIn ∧ t.inputMode = s.inputMode

theorem exec_sameLimits {i : Instr} {s t : State} (h : exec i s = .next t) : SameLimits s t := by
  cases exec_executes h <;> exact ⟨rfl, rfl, rfl⟩

theorem step_sameLimits {s t : State} (h : step s = .next t) : SameLimits s t := by
  cases step_steps h with
  | rest | outputLimit | fault => exact ⟨rfl, rfl, rfl⟩
  | execute i hs hi hexec => exact exec_sameLimits hexec

/-- A step keeps memory, or it executes an instruction that stores. -/
theorem step_mem_cases {s t : State} (h : step s = .next t) :
    t.mem = s.mem ∨ ∃ i, fetch s = .ok i ∧ i.opcode ∈ ([.add, .mul, .inp, .lt, .eq] : List Opcode) := by
  cases step_steps h with
  | rest | outputLimit | fault => exact .inl rfl
  | execute i hs hi hexec => exact (exec_mem_eq_or_stores hexec).imp_right fun hop => ⟨i, hi, hop⟩

/-- A step keeps IP, or it executes an instruction inside a run. -/
theorem step_ip_cases {s t : State} (h : step s = .next t) :
    t.ip = s.ip ∨ s.active = true ∧ ∃ i, fetch s = .ok i ∧ exec i s = .next t := by
  cases step_steps h with
  | rest | outputLimit | fault => exact .inl rfl
  | execute i hs hi hexec => exact .inr ⟨hs.active, i, hi, hexec⟩

/-- A step keeps RB, or it executes an ARB. -/
theorem step_rb_cases {s t : State} (h : step s = .next t) : t.rb = s.rb ∨ ∃ a, fetch s = .ok (.arb a) := by
  cases step_steps h with
  | rest | outputLimit | fault => exact .inl rfl
  | execute i hs hi hexec =>
    obtain hkept | ⟨a, rfl⟩ := exec_rb_eq_or_arb hexec
    · exact .inl hkept
    · exact .inr ⟨a, hi⟩

/-- A step keeps the queue, IDLE and IN_COUNT, or it executes an IN that takes at most the head of the queue. -/
theorem step_inputs_cases {s t : State} (h : step s = .next t) :
    (t.inq = s.inq ∧ t.idle = s.idle ∧ t.inCount = s.inCount) ∨
      ((∃ dst, fetch s = .ok (.inp dst)) ∧ (t.inq = s.inq ∨ ∃ v, s.inq = v :: t.inq)) := by
  cases step_steps h with
  | rest | outputLimit | fault => exact .inl ⟨rfl, rfl, rfl⟩
  | execute i hs hi hexec =>
    obtain hkept | ⟨⟨dst, rfl⟩, hqueue⟩ := exec_inputs_cases hexec
    · exact .inl hkept
    · exact .inr ⟨⟨dst, hi⟩, hqueue⟩

/-- A step that changes anything is one inside a run. -/
theorem active_of_step_ne {s t : State} (h : step s = .next t) (hne : t ≠ s) : s.active = true := by
  by_contra hrest
  exact hne (step_eq_of_rest (Bool.eq_false_iff.2 hrest) h)

/-- Everything a move other than `new` can do. -/
inductive Moves (s : State) : Event → State → Prop
  | keeps {e : Event} : Moves s e s
  | engine {t : State} (h : step s = .next t) : Moves s .engine t
  | starts {a b : Option Int} (mo mi : Option Nat) (hrest : s.active = false)
      (hstatus : s.status = .running ∨ s.status = .pausedOnOutputCount ∨ s.status = .pausedOnInputCount) :
      Moves s (.host (.run a b)) (s.startRun mo mi)
  | supplies {op : HostOp} (xs : List Int) (hop : op = .addInputs xs ∨ ∃ x, xs = [x] ∧ op = .addInput x)
      (hpermitted : s.active = true ∨ s.status ≠ .faulted) : Moves s (.host op) (s.addInputs xs)
  | patches {a : Int} (n : Nat) (v : Int) (hrest : s.active = false) (hstatus : s.status ≠ .faulted) :
      Moves s (.host (.memoryWrite a v)) (s.storeCell n v)

theorem perform_moves {op : HostOp} {s t : State} {r : Reply} (h : perform op s = .next (t, r))
    (hnew : (Event.host op).isNew = false) : Moves s (.host op) t := by
  obtain rfl | ⟨_, _, _, _, _, rfl, -⟩ | ⟨_, _, mo, mi, rfl, -, -, hrest, hstatus, rfl⟩ | ⟨xs, hop, hpermitted, rfl⟩ |
    ⟨_, n, v, rfl, -, hrest, hstatus, rfl⟩ := perform_cases h
  · exact .keeps
  · cases hnew
  · exact .starts mo mi hrest hstatus
  · exact .supplies xs hop (hpermitted.imp And.left And.right)
  · exact .patches n v hrest hstatus

theorem act_moves {e : Event} {s t : State} (h : e.act s = .next t) (hnew : e.isNew = false) : Moves s e t := by
  cases e with
  | engine => exact .engine h
  | host op =>
    obtain ⟨r, hr⟩ := act_host_cases h
    exact perform_moves hr hnew

/-- Settles O36: a host's move writes what its one update writes; an engine's step writes each piece as `step_mem_cases` and
its companions say. -/
theorem stateIsWrittenOnlyByItsWriters : Obligations.StateIsWrittenOnlyByItsWriters := by
  intro e s t h hnew
  cases act_moves h hnew with
  | keeps | starts | patches => simp
  | supplies xs hop => simpa using fun _ => hop
  | engine hstep =>
    have hactive : t ≠ s → s.active = true := active_of_step_ne hstep
    have hfault : t.fault = s.fault ∨ RaisedFault s t := step_fault_eq_or_raised hstep
    obtain ⟨hmaxOut, hmaxIn, hmode⟩ := step_sameLimits hstep
    refine ⟨fun hne => .inr ⟨rfl, (step_mem_cases hstep).resolve_left hne⟩,
      fun hne => ⟨rfl, (step_ip_cases hstep).resolve_left hne⟩, fun hne => ⟨rfl, (step_rb_cases hstep).resolve_left hne⟩,
      ?queue, ?log, fun hne => .inl ⟨rfl, hactive ?control⟩,
      fun hne => ⟨rfl, hactive ?fault, hfault.resolve_left hne⟩, ?idle, ?outCount, ?inCount, ?limits, hmode⟩
    case control =>
      rintro rfl
      simp at hne
    case fault =>
      rintro rfl
      exact hne rfl
    case queue =>
      intro hne
      obtain ⟨hkept, -⟩ | ⟨hin, hqueue⟩ := step_inputs_cases hstep
      · exact absurd hkept hne
      · exact .inl ⟨rfl, hin, hqueue.resolve_left hne⟩
    case idle =>
      intro hne
      obtain ⟨-, hkept, -⟩ | ⟨hin, -⟩ := step_inputs_cases hstep
      · exact absurd hkept hne
      · exact ⟨rfl, hin⟩
    case inCount =>
      intro hne
      obtain ⟨-, -, hkept⟩ | ⟨hin, -⟩ := step_inputs_cases hstep
      · exact absurd hkept hne
      · exact .inr ⟨rfl, hin⟩
    case log =>
      intro hne
      obtain ⟨hkept, -⟩ | ⟨a, v, hi, hout, -⟩ := step_outputs_cases hstep
      · exact absurd hkept hne
      · exact ⟨rfl, ⟨a, hi⟩, v, hout⟩
    case outCount =>
      intro hne
      obtain ⟨-, hkept⟩ | ⟨a, v, hi, -, -⟩ := step_outputs_cases hstep
      · exact absurd hkept hne
      · exact .inr ⟨rfl, a, hi⟩
    case limits =>
      rintro (hne | hne)
      · exact absurd hmaxOut hne
      · exact absurd hmaxIn hne

end Sys2Proof.Machine

/-! ## The invariant (R36): its part about data and its part about control -/

namespace Sys2Proof.Machine

/-- The part of the invariant that speaks of memory, the counts, the log and IDLE. -/
structure State.DataInv (s : State) : Prop where
  mem_wf : s.mem.wf = true
  outCount_within : withinLimit s.maxOut s.outCount = true
  inCount_within : withinLimit s.maxIn s.inCount = true
  outputs_logged : s.outCount ≤ s.out.length
  idle_defaulted : s.idle = true → s.inputMode.isDefaulted = true

/-- The part of the invariant that speaks of STATUS, ACTIVE and FAULT. -/
structure State.ControlInv (s : State) : Prop where
  faulted_iff : s.status = .faulted ↔ s.fault.isSome = true
  fault_fits : s.faultFits = true
  running_of_active : s.active = true → s.status = .running
  output_pause : s.status = .pausedOnOutputCount → s.maxOut = some s.outCount
  input_pause : s.status = .pausedOnInputCount → s.maxIn = some s.inCount

theorem State.inv_iff {s : State} : s.Inv ↔ s.DataInv ∧ s.ControlInv :=
  ⟨fun ⟨hmem, hfaulted, hfits, hactive, hout, hin, hpout, hpin, hlog, hidle⟩ =>
      ⟨⟨hmem, hout, hin, hlog, hidle⟩, ⟨hfaulted, hfits, hactive, hpout, hpin⟩⟩,
    fun ⟨⟨hmem, hout, hin, hlog, hidle⟩, ⟨hfaulted, hfits, hactive, hpout, hpin⟩⟩ =>
      ⟨hmem, hfaulted, hfits, hactive, hout, hin, hpout, hpin, hlog, hidle⟩⟩

/-- A count below its limit is still within it when it has grown by one. -/
theorem withinLimit_succ {limit : Option Nat} {count : Nat} (h : withinLimit limit count = true)
    (hlimit : limit ≠ some count) : withinLimit limit (count + 1) = true := by
  cases limit with
  | none => rfl
  | some n =>
    have hle : count ≤ n := by simpa [withinLimit] using h
    have hne : n ≠ count := by simpa using hlimit
    simpa [withinLimit] using Nat.lt_of_le_of_ne hle hne.symm

theorem withinLimit_zero (limit : Option Nat) : withinLimit limit 0 = true := by cases limit <;> simp [withinLimit]

/-- An instruction keeps the data part where the output limit is not reached, as the cycle has made sure before. -/
theorem Executes.dataInv {s t : State} {i : Instr} (h : Executes s i t) (hlimit : s.maxOut ≠ some s.outCount)
    (hs : s.DataInv) : t.DataInv := by
  obtain ⟨hmem, hout, hin, hlog, hidle⟩ := hs
  cases h with
  | fault | inputLimit | inputHold | jump | noJump | adjustBase | halt => exact ⟨hmem, hout, hin, hlog, hidle⟩
  | store d v => exact ⟨Memory.write_wf d v hmem, hout, hin, hlog, hidle⟩
  | inputQueued d v rest hd hmaxIn => exact ⟨Memory.write_wf d v hmem, hout, withinLimit_succ hin hmaxIn, hlog, nofun⟩
  | inputDefault d v hd hmaxIn hqueue hmode =>
    refine ⟨Memory.write_wf d v hmem, hout, withinLimit_succ hin hmaxIn, hlog, fun _ => ?_⟩
    simp [hmode, InputMode.isDefaulted]
  | output v => exact ⟨hmem, withinLimit_succ hout hlimit, hin, by simpa using hlog, hidle⟩

theorem step_dataInv {s t : State} (h : step s = .next t) (hs : s.DataInv) : t.DataInv := by
  cases step_steps h with
  | rest => exact hs
  | outputLimit | fault =>
    exact ⟨hs.mem_wf, hs.outCount_within, hs.inCount_within, hs.outputs_logged, hs.idle_defaulted⟩
  | execute i hfetch hi hexec => exact (exec_executes hexec).dataInv hfetch.below_limit hs

/-- A machine that is not Faulted has no record, so it meets the control part when the statuses fit. -/
theorem State.ControlInv.of_no_fault {s : State} (hfault : s.fault = none) (hstatus : s.status ≠ .faulted)
    (hactive : s.active = true → s.status = .running) (hout : s.status = .pausedOnOutputCount → s.maxOut = some s.outCount)
    (hin : s.status = .pausedOnInputCount → s.maxIn = some s.inCount) : s.ControlInv :=
  ⟨by simp [hfault, hstatus], by simp [State.faultFits, hfault], hactive, hout, hin⟩

theorem State.ControlInv.of_running {s : State} (hfault : s.fault = none) (hstatus : s.status = .running) : s.ControlInv :=
  .of_no_fault hfault (by simp [hstatus]) (fun _ => hstatus) (by simp [hstatus]) (by simp [hstatus])

theorem State.ControlInv.fault_eq_none {s : State} (hs : s.ControlInv) (hstatus : s.status ≠ .faulted) : s.fault = none := by
  rw [← Option.not_isSome_iff_eq_none, ← hs.faulted_iff]
  exact hstatus

/-- Inside a run no fault is latched. -/
theorem State.ControlInv.fault_eq_none_of_active {s : State} (hs : s.ControlInv) (hactive : s.active = true) :
    s.fault = none :=
  hs.fault_eq_none (by simp [hs.running_of_active hactive])

/-- Each way a step inside a run leaves the control state meets its part of the invariant. -/
theorem StepOutcome.controlInv {s t : State} (h : StepOutcome s t) (hactive : s.active = true) (hs : s.ControlInv) :
    t.ControlInv := by
  have hfault : s.fault = none := hs.fault_eq_none_of_active hactive
  cases h with
  | goesOn hcontrol =>
    exact .of_running (hcontrol.2.2.trans hfault) (hcontrol.1.trans (hs.running_of_active hactive))
  | pausesOnOutput hlimit => exact .of_no_fault hfault nofun nofun (fun _ => hlimit) nofun
  | pausesOnInput dst hfetch hi hlimit => exact .of_no_fault hfault nofun nofun nofun fun _ => hlimit
  | faults c x hfits => exact ⟨by simp, hfits, nofun, nofun, nofun⟩
  | halts => exact .of_no_fault hfault nofun nofun nofun nofun

theorem step_controlInv {s t : State} (h : step s = .next t) (hs : s.ControlInv) : t.ControlInv := by
  cases hactive : s.active with
  | false => rwa [step_eq_of_rest hactive h]
  | true => exact (step_outcome h).controlInv hactive hs

/-- Settles O42: a step keeps the two parts of the invariant. -/
theorem stepKeepsTheInvariant : Obligations.StepKeepsTheInvariant := by
  intro s t hs h
  obtain ⟨hdata, hcontrol⟩ := State.inv_iff.1 hs
  exact State.inv_iff.2 ⟨step_dataInv h hdata, step_controlInv h hcontrol⟩

theorem construct_inv (program inputs : List Int) (mode : InputMode) : (construct program inputs mode).Inv :=
  State.inv_iff.2
    ⟨⟨construct_mem_wf program inputs mode, rfl, rfl, le_rfl, nofun⟩, .of_running rfl rfl⟩

/-- Settles O41: a construction's memory is canonical, it is Running and its counts are 0; `State.reset` is one. -/
theorem constructionMeetsTheInvariant : Obligations.ConstructionMeetsTheInvariant :=
  ⟨construct_inv, reset_eq_construct ▸ construct_inv [] [] .queued⟩

/-- The start of a run meets the invariant, if the machine was not Faulted. -/
theorem State.Inv.startRun {s : State} (hs : s.Inv) (hstatus : s.status ≠ .faulted) (mo mi : Option Nat) :
    (s.startRun mo mi).Inv := by
  obtain ⟨hdata, hcontrol⟩ := State.inv_iff.1 hs
  refine State.inv_iff.2 ⟨⟨hdata.mem_wf, withinLimit_zero _, withinLimit_zero _, Nat.zero_le _, hdata.idle_defaulted⟩, ?_⟩
  exact .of_running (hcontrol.fault_eq_none hstatus) rfl

/-- More values in the queue keep the invariant, if the machine is not Faulted. -/
theorem State.Inv.addInputs {s : State} (hs : s.Inv) (hstatus : s.status ≠ .faulted) (xs : List Int) :
    (s.addInputs xs).Inv := by
  obtain ⟨⟨hmem, hout, hin, hlog, hidle⟩, hcontrol⟩ := State.inv_iff.1 hs
  refine State.inv_iff.2 ⟨⟨hmem, hout, hin, hlog, hidle⟩, ?_⟩
  exact .of_no_fault (hcontrol.fault_eq_none hstatus) hstatus hcontrol.running_of_active hcontrol.output_pause
    hcontrol.input_pause

/-- A cell patched by the host keeps the invariant. -/
theorem State.Inv.storeCell {s : State} (hs : s.Inv) (n : Nat) (v : Int) : (s.storeCell n v).Inv := by
  obtain ⟨⟨hmem, hout, hin, hlog, hidle⟩, ⟨hfaulted, hfits, hactive, hpout, hpin⟩⟩ := State.inv_iff.1 hs
  exact State.inv_iff.2 ⟨⟨Memory.write_wf n v hmem, hout, hin, hlog, hidle⟩, ⟨hfaulted, hfits, hactive, hpout, hpin⟩⟩

/-- The statuses from which a run starts are neither of the terminal ones (R172, R181). -/
theorem not_terminal_of_starts {s : State}
    (h : s.status = .running ∨ s.status = .pausedOnOutputCount ∨ s.status = .pausedOnInputCount) :
    s.status ≠ .halted ∧ s.status ≠ .faulted := by
  obtain h | h | h := h <;> simp [h]

/-- Settles O43: each of the host's updates keeps the invariant where it is permitted. -/
theorem hostOperationsKeepTheInvariant : Obligations.HostOperationsKeepTheInvariant := by
  intro op s t r hs h
  have hcontrol : s.ControlInv := (State.inv_iff.1 hs).2
  obtain rfl | ⟨_, _, _, _, _, -, -, -, rfl⟩ | ⟨_, _, mo, mi, -, -, -, -, hstatus, rfl⟩ | ⟨xs, -, hpermitted, rfl⟩ |
    ⟨_, n, v, -, -, -, -, rfl⟩ := perform_cases h
  · exact hs
  · exact construct_inv ..
  · exact hs.startRun (not_terminal_of_starts hstatus).2 mo mi
  · refine hs.addInputs ?_ xs
    obtain ⟨hactive, -⟩ | ⟨-, hstatus⟩ := hpermitted
    · simp [hcontrol.running_of_active hactive]
    · exact hstatus
  · exact hs.storeCell n v

/-- Every move of either agent keeps the invariant. -/
theorem act_inv {e : Event} {s t : State} (hs : s.Inv) (h : e.act s = .next t) : t.Inv := by
  cases e with
  | engine => exact stepKeepsTheInvariant s t hs h
  | host op =>
    obtain ⟨r, hr⟩ := act_host_cases h
    exact hostOperationsKeepTheInvariant op s t r hs hr

/-- Settles O44, by induction on the moves from the construction. -/
theorem reachableStatesMeetTheInvariant : Obligations.ReachableStatesMeetTheInvariant := by
  intro s h
  induction h with
  | constructed program inputs mode => exact construct_inv program inputs mode
  | moved s t e _ hact ih => exact act_inv ih hact

end Sys2Proof.Machine

/-! ## Sessions of the two agents without `new` (R5, R36): what every move keeps -/

namespace Sys2Proof.Machine

/-- What every move other than `new` keeps holds after any list of such moves. -/
theorem session_preserves {P : State → Prop}
    (hmove : ∀ {e : Event} {u v : State}, Moves u e v → P u → P v) {t : State} :
    ∀ {es : List Event} {s : State}, (∀ e ∈ es, e.isNew = false) → session es s = .next t → P s → P t
  | [], s, _, h, hs => by
    cases h
    exact hs
  | e :: es, s, hnew, h, hs => by
    obtain ⟨he, hes⟩ := List.forall_mem_cons.1 hnew
    unfold session at h
    split at h
    · rename_i u hu
      exact session_preserves hmove hes h (hmove (act_moves hu he) hs)
    · cases h
    · cases h

/-- A move other than `new` only appends to the log. -/
theorem Moves.out_grows {e : Event} {s t : State} (h : Moves s e t) : s.out <+: t.out := by
  cases h with
  | keeps | starts | supplies | patches => exact ⟨[], List.append_nil _⟩
  | engine hstep =>
    obtain ⟨hkept, -⟩ | ⟨_, v, -, hout, -⟩ := step_outputs_cases hstep
    · rw [hkept]
    · exact ⟨[v], hout.symm⟩

/-- Settles O38: every move keeps the log of the start as a beginning of the log. -/
theorem outputLogOnlyGrows : Obligations.OutputLogOnlyGrows := by
  intro es s t hnew h
  exact session_preserves (P := fun u => s.out <+: u.out) (fun hmove hu => hu.trans hmove.out_grows) hnew h ⟨[], List.append_nil _⟩

/-- A machine that halted as `s` did: at rest with the registers of `s`, its queue at most longer. -/
structure HaltedAs (s u : State) : Prop where
  status : u.status = .halted
  active : u.active = false
  ip : u.ip = s.ip
  rb : u.rb = s.rb
  out : u.out = s.out
  idle : u.idle = s.idle
  fault : u.fault = none
  inq : s.inq <+: u.inq

/-- No move but `new` takes a machine out of Halted: the engine rests, `run` does not start. -/
theorem HaltedAs.of_moves {s u v : State} {e : Event} (h : Moves u e v) (hu : HaltedAs s u) : HaltedAs s v := by
  obtain ⟨hstatus, hactive, hip, hrb, hout, hidle, hfault, hinq⟩ := hu
  cases h with
  | keeps | patches => exact ⟨hstatus, hactive, hip, hrb, hout, hidle, hfault, hinq⟩
  | engine hstep =>
    rw [step_eq_of_rest hactive hstep]
    exact ⟨hstatus, hactive, hip, hrb, hout, hidle, hfault, hinq⟩
  | starts _ _ _ hstart => simp [hstatus] at hstart
  | supplies xs => exact ⟨hstatus, hactive, hip, hrb, hout, hidle, hfault, hinq.trans ⟨xs, rfl⟩⟩

/-- No move but `new` changes a machine at rest that is Faulted. -/
theorem Moves.eq_of_faulted {s t : State} {e : Event} (h : Moves s e t) (hrest : s.active = false)
    (hstatus : s.status = .faulted) : t = s := by
  cases h with
  | keeps => rfl
  | engine hstep => exact step_eq_of_rest hrest hstep
  | starts _ _ _ hstart => simp [hstatus] at hstart
  | supplies _ _ hpermitted => simp [hrest, hstatus] at hpermitted
  | patches _ _ _ hne => exact absurd hstatus hne

/-- Settles O39: no move but `new` leaves either of the two. -/
theorem terminalStatusesAreNeverLeft : Obligations.TerminalStatusesAreNeverLeft := by
  intro es s t hnew h hrest
  refine ⟨fun hstatus hfault => ?halted, fun hstatus => ?faulted⟩
  case halted =>
    have hstart : HaltedAs s s := ⟨hstatus, hrest, rfl, rfl, rfl, rfl, hfault, [], List.append_nil _⟩
    obtain ⟨hstatus', hactive, hip, hrb, hout, hidle, hfault', hinq⟩ := session_preserves .of_moves hnew h hstart
    exact ⟨hstatus', hactive, hip, hrb, hout, hidle, hfault', hinq⟩
  case faulted =>
    refine session_preserves (P := (· = s)) (fun hmove hu => ?_) hnew h rfl
    subst hu
    exact hmove.eq_of_faulted hrest hstatus

/-- Settles O40: a step's outcomes are the endings of a run, or it goes on; of the host's operations only `new` and the start
of a run write STATUS or ACTIVE. -/
theorem statusMovesAlongTheDiagram : Obligations.StatusMovesAlongTheDiagram := by
  intro e s t h hs
  have hcontrol : s.ControlInv := (State.inv_iff.1 hs).2
  refine ⟨fun hactive he => ?engine, fun hrest he => ?rest, fun op he => ?host⟩
  case engine =>
    subst he
    cases step_outcome h with
    | goesOn hsame => exact .inl ⟨hsame.1.trans (hcontrol.running_of_active hactive), hsame.2.1.trans hactive⟩
    | pausesOnOutput hlimit => exact .inr (.inl ⟨rfl, rfl, hlimit⟩)
    | pausesOnInput dst hfetch hi hlimit => exact .inr (.inr (.inl ⟨rfl, rfl, hlimit, dst, hi⟩))
    | halts hi => exact .inr (.inr (.inr (.inl ⟨rfl, rfl, hi⟩)))
    | faults => exact .inr (.inr (.inr (.inr ⟨rfl, rfl⟩)))
  case rest =>
    subst he
    exact step_eq_of_rest hrest h
  case host =>
    subst he
    cases hnew : (Event.host op).isNew with
    | true => exact .inr (.inl rfl)
    | false =>
      cases act_moves h hnew with
      | keeps | supplies | patches => exact .inl ⟨rfl, rfl⟩
      | starts mo mi hrest hstatus =>
        obtain ⟨hhalted, hfaulted⟩ := not_terminal_of_starts hstatus
        exact .inr (.inr ⟨⟨_, _, rfl⟩, hhalted, hfaulted, rfl, rfl⟩)

end Sys2Proof.Machine

/-! ## The bookkeeping of a run is invisible to the program (R29): states compared without it -/

namespace Sys2Proof.Machine

/-- A state without the counts and limits of its run. -/
def State.bare (s : State) : State := { s with outCount := 0, inCount := 0, maxOut := none, maxIn := none }

/-- Two states are the same without their bookkeeping exactly when they agree on the program's state and on control. -/
theorem bare_eq_iff {s t : State} :
    s.bare = t.bare ↔ SameProgramState s t ∧ s.status = t.status ∧ s.active = t.active ∧ s.fault = t.fault := by
  cases s
  cases t
  simp only [State.bare, State.mk.injEq, SameProgramState]
  tauto

/-- An answer with its next state compared without bookkeeping. -/
def bareAnswer : Answer → Answer
  | .next t => .next t.bare
  | .fault r => .fault r
  | .refused r => .refused r

/-- The resolvers read memory, RB and the parameter alone. -/
@[simp] theorem resolveRead_bare (s : State) (p : Param) : resolveRead s.bare p = resolveRead s p := rfl

@[simp] theorem resolveWrite_bare (s : State) (p : Param) : resolveWrite s.bare p = resolveWrite s p := rfl

@[simp] theorem fetch_bare (s : State) : fetch s.bare = fetch s := rfl

theorem withLegalModes_bare {i : Instr} {s : State} {k k' : Answer}
    (h : i.wellFormed = true → bareAnswer k' = bareAnswer k) :
    bareAnswer (withLegalModes i s.bare k') = bareAnswer (withLegalModes i s k) := by
  unfold withLegalModes
  split
  · exact h ‹_›
  · rfl

theorem withRead_bare {p : Param} {s : State} {k k' : Int → Answer} (h : ∀ v, bareAnswer (k' v) = bareAnswer (k v)) :
    bareAnswer (withRead p s.bare k') = bareAnswer (withRead p s k) := by
  unfold withRead
  rw [resolveRead_bare]
  split
  · exact h _
  · rfl

theorem withDst_bare {p : Param} {s : State} {k k' : Nat → Answer}
    (h : ∀ d, resolveWrite s p = .ok d → bareAnswer (k' d) = bareAnswer (k d)) :
    bareAnswer (withDst p s.bare k') = bareAnswer (withDst p s k) := by
  unfold withDst
  rw [resolveWrite_bare]
  split
  · exact h _ ‹_›
  · rfl

theorem storeResult_bare (i : Instr) (f : Int → Int → Int) (a b dst : Param) (s : State) :
    bareAnswer (storeResult i f a b dst s.bare) = bareAnswer (storeResult i f a b dst s) :=
  withLegalModes_bare fun _ => withRead_bare fun _ => withRead_bare fun _ => withDst_bare fun _ _ => rfl

theorem jumpIf_bare (test : Int → Bool) (c g : Param) (s : State) :
    bareAnswer (jumpIf test c g s.bare) = bareAnswer (jumpIf test c g s) :=
  withRead_bare fun x => withRead_bare fun y => by cases test x <;> rfl

/-- Below the input limit IN finds what it would find without limits. -/
theorem inputSource_bare {s : State} (hlimit : s.maxIn ≠ some s.inCount) : inputSource s.bare = inputSource s := by
  simp [inputSource, limitReached, hlimit, State.bare]

theorem input_bare {d : Nat} {s : State} (hlimit : s.maxIn ≠ some s.inCount) :
    bareAnswer (input d s.bare) = bareAnswer (input d s) := by
  unfold input
  rw [inputSource_bare hlimit]
  split <;> rfl

/-- An instruction that does not pause the run does without bookkeeping what it does with it: only IN reads any, and where its
destination resolves it pauses at its limit. -/
theorem exec_bare {i : Instr} {s t : State} (h : exec i s = .next t) (ht : t.status ≠ .pausedOnInputCount) :
    bareAnswer (exec i s.bare) = bareAnswer (exec i s) := by
  cases i with
  | add | mul | lt | eq => exact storeResult_bare ..
  | out | arb => exact withRead_bare fun _ => rfl
  | jt | jf => exact jumpIf_bare ..
  | hlt => rfl
  | inp dst =>
    refine withLegalModes_bare fun hwf => withDst_bare fun d hd => input_bare fun hlimit => ht ?_
    rw [exec_inp_of_resolved (wellFormed_inp_iff.1 hwf) hd, input_of_limit hlimit] at h
    cases h
    rfl

theorem AtFetch.bare {s : State} (hs : AtFetch s) : AtFetch s.bare := ⟨hs.active, nofun, hs.ip_nonneg⟩

/-- A run paused by one of its limits. -/
abbrev State.Paused (s : State) : Prop := s.status = .pausedOnOutputCount ∨ s.status = .pausedOnInputCount

/-- A step inside a run that does not pause it does without bookkeeping what it does with it. -/
theorem step_bare {s t : State} (hactive : s.active = true) (h : step s = .next t) (ht : ¬ t.Paused) :
    bareAnswer (step s.bare) = .next t.bare := by
  have hcycle : step s = cycle s := by simp [step, engineStep, hactive]
  obtain ⟨-, hc⟩ | ⟨-, hip, hc⟩ | ⟨e, hlimit, hip, hrefused, hc⟩ | ⟨i, hlimit, hip, hi, hc⟩ := cycle_cases s <;>
    rw [hcycle, hc] at h
  · cases h
    exact absurd (.inl rfl) ht
  · cases h
    rw [step_of_negative_ip (s := s.bare) hactive nofun hip]
    rfl
  · cases h
    have hs : AtFetch s := ⟨hactive, hlimit, hip⟩
    rw [hs.bare.step_of_error (fetch_of_refused hrefused)]
    cases e <;> rfl
  · have hs : AtFetch s := ⟨hactive, hlimit, hip⟩
    rw [hs.bare.step_of_ok hi, exec_bare h fun hin => ht (.inr hin), h]
    rfl

/-- States that differ only in bookkeeping still do after a step of each that does not pause. -/
theorem step_bare_congr {s t s' t' : State} (hst : s.bare = t.bare) (hactive : s.active = true) (hs : step s = .next s')
    (ht : step t = .next t') (hs' : ¬ s'.Paused) (ht' : ¬ t'.Paused) : s'.bare = t'.bare := by
  have hactive' : t.active = true := (bare_eq_iff.1 hst).2.2.1 ▸ hactive
  have hboth : (.next s'.bare : Answer) = .next t'.bare := by
    rw [← step_bare hactive hs hs', ← step_bare hactive' ht ht', hst]
  exact Host.Outcome.next.inj hboth

/-- Settles O45: the two states are the same without their bookkeeping, and so are their next states. -/
theorem runBookkeepingIsInvisibleToTheProgram : Obligations.RunBookkeepingIsInvisibleToTheProgram := by
  intro s t s' t' hsame hs ht hstatus hstatus' hfault hstep hstep' hout hin hout' hin'
  have hst : s.bare = t.bare := bare_eq_iff.2 ⟨hsame, hstatus.trans hstatus'.symm, hs.trans ht.symm, hfault⟩
  exact bare_eq_iff.1 (step_bare_congr hst hs hstep hstep' (not_or.2 ⟨hout, hin⟩) (not_or.2 ⟨hout', hin'⟩))

end Sys2Proof.Machine

/-! ## Whole runs: how they end (R172 to R177, R189) -/

namespace Sys2Proof.Machine

theorem runCycles_of_rest {s : State} (hrest : s.active = false) (n : Nat) : runCycles n s = some s := by
  cases n <;> simp [runCycles, hrest]

theorem runCycles_succ_of_step {s t : State} (hactive : s.active = true) (h : step s = .next t) (n : Nat) :
    runCycles (n + 1) s = runCycles n t := by
  simp [runCycles, hactive, h]

/-- A run that ends from inside has taken a step. -/
theorem runCycles_cases_of_active {n : Nat} {s t : State} (hactive : s.active = true) (h : runCycles n s = some t) :
    ∃ m u, n = m + 1 ∧ step s = .next u ∧ runCycles m u = some t := by
  obtain ⟨u, hu⟩ := step_answers hactive
  cases n with
  | zero => simp [runCycles, hactive] at h
  | succ m => exact ⟨m, u, rfl, hu, by rwa [runCycles_succ_of_step hactive hu] at h⟩

/-- The state in which a run has ended is at rest. -/
theorem runCycles_rest {t : State} : ∀ {n : Nat} {s : State}, runCycles n s = some t → t.active = false
  | n, s, h => by
    cases hactive : s.active with
    | false =>
      rw [runCycles_of_rest hactive] at h
      cases h
      exact hactive
    | true =>
      obtain ⟨m, u, rfl, -, hu⟩ := runCycles_cases_of_active hactive h
      exact runCycles_rest hu

/-- What the cycles of a run keep: inside it the status is Running, and a pause has its reason, the limit it stands at and, on
the input count, an IN at IP. -/
structure PauseReasons (s : State) : Prop where
  running_of_active : s.active = true → s.status = .running
  output_pause : s.status = .pausedOnOutputCount → s.maxOut = some s.outCount
  input_pause : s.status = .pausedOnInputCount → s.maxIn = some s.inCount ∧ 0 ≤ s.ip ∧ ∃ dst, fetch s = .ok (.inp dst)

/-- A run that goes on after a step is still Running. -/
theorem StepOutcome.running_of_active {s t : State} (h : StepOutcome s t) (hs : s.status = .running)
    (ht : t.active = true) : t.status = .running := by
  cases h with
  | goesOn hcontrol => exact hcontrol.1.trans hs
  | pausesOnOutput | pausesOnInput | faults | halts => cases ht

theorem StepOutcome.pauseReasons {s t : State} (h : StepOutcome s t) (hactive : s.active = true) (hs : PauseReasons s) :
    PauseReasons t := by
  cases h with
  | goesOn hcontrol =>
    have hrunning : t.status = .running := hcontrol.1.trans (hs.running_of_active hactive)
    exact ⟨fun _ => hrunning, by simp [hrunning], by simp [hrunning]⟩
  | pausesOnOutput hlimit => exact ⟨nofun, fun _ => hlimit, nofun⟩
  | pausesOnInput dst hfetch hi hlimit => exact ⟨nofun, nofun, fun _ => ⟨hlimit, hfetch.ip_nonneg, dst, hi⟩⟩
  | faults | halts => exact ⟨nofun, nofun, nofun⟩

/-- A run that has started ends with its limits as they were latched, and a pause with its reason. -/
theorem runCycles_startRun {n : Nat} {s t : State} {mo mi : Option Nat} (h : runCycles n (s.startRun mo mi) = some t) :
    PauseReasons t ∧ t.maxOut = mo ∧ t.maxIn = mi := by
  refine runCycles_preserves (P := fun u => PauseReasons u ∧ u.maxOut = mo ∧ u.maxIn = mi) ?_ h
    ⟨⟨fun _ => rfl, nofun, nofun⟩, rfl, rfl⟩
  intro u v hactive hstep hu
  obtain ⟨hreasons, hout, hin⟩ := hu
  obtain ⟨hout', hin', -⟩ := step_sameLimits hstep
  exact ⟨(step_outcome hstep).pauseReasons hactive hreasons, hout'.trans hout, hin'.trans hin⟩

/-- A run without limits does not pause (R177). -/
theorem not_paused_of_no_limits {n : Nat} {s t : State} (h : runCycles n (s.startRun none none) = some t) : ¬ t.Paused := by
  obtain ⟨hreasons, hout, hin⟩ := runCycles_startRun h
  rintro (hpause | hpause)
  · have hlimit := hreasons.output_pause hpause
    rw [hout] at hlimit
    cases hlimit
  · obtain ⟨hlimit, -⟩ := hreasons.input_pause hpause
    rw [hin] at hlimit
    cases hlimit

/-- `run` that is not refused has legal limits, and starts the run or answers a terminal status again. -/
theorem perform_run_cases {a b : Option Int} {s t : State} {r : Reply} (h : perform (.run a b) s = .next (t, r)) :
    s.active = false ∧ ∃ mo mi, limitOf a = some mo ∧ limitOf b = some mi ∧
      (t = s.startRun mo mi ∨ t = s ∧ (s.status = .halted ∨ s.status = .faulted)) := by
  obtain ⟨hpermitted, h⟩ := perform_next.1 h
  have hrest : s.active = false := by
    cases hactive : s.active with
    | false => rfl
    | true => simp [notPermitted, hactive, HostOp.suppliesInput] at hpermitted
  simp only [transact] at h
  split at h
  · rename_i mo mi ha hb
    refine ⟨hrest, mo, mi, ha, hb, ?_⟩
    by_cases hhalted : s.status = .halted
    · simp only [hostRun, hhalted] at h
      cases h
      exact .inr ⟨rfl, .inl hhalted⟩
    · by_cases hfaulted : s.status = .faulted
      · simp only [hostRun, hfaulted] at h
        split at h <;> cases h
        exact .inr ⟨rfl, .inr hfaulted⟩
      · rw [hostRun_starts mo mi hhalted hfaulted] at h
        cases h
        exact .inl rfl
  · cases h

/-- The status a result of a run speaks of (R189). -/
def RunResult.status : RunResult → Status
  | .halted => .halted
  | .pausedOnOutputCount => .pausedOnOutputCount
  | .pausedOnInputCount => .pausedOnInputCount
  | .fault _ => .faulted

theorem status_of_runResult {t : State} {r : RunResult} (h : runResult t = some r) : t.status = r.status := by
  unfold runResult at h
  split at h
  · cases h
  · split at h
    · cases h
    · cases h; assumption
    · cases h; assumption
    · cases h; assumption
    · obtain ⟨f, -, rfl⟩ := Option.map_eq_some_iff.1 h
      assumption

/-- A whole run has legal limits and its result's status, and it ran its cycles or found the machine in a terminal status. -/
theorem runTransaction_cases {fuel : Nat} {a b : Option Int} {s t : State} {r : RunResult}
    (h : runTransaction fuel a b s = some (t, r)) :
    ∃ mo mi, limitOf a = some mo ∧ limitOf b = some mi ∧ t.status = r.status ∧
      (runCycles fuel (s.startRun mo mi) = some t ∨ r.status = .halted ∨ r.status = .faulted) := by
  unfold runTransaction at h
  split at h
  · rename_i u reply hperform
    obtain ⟨hrest, mo, mi, ha, hb, hrun⟩ := perform_run_cases hperform
    split at h
    · rename_i w hw
      obtain ⟨r', hr, hpair⟩ := Option.map_eq_some_iff.1 h
      cases hpair
      have hstatus := status_of_runResult hr
      refine ⟨mo, mi, ha, hb, hstatus, ?_⟩
      obtain rfl | ⟨rfl, hterminal⟩ := hrun
      · exact .inl hw
      · rw [runCycles_of_rest hrest] at hw
        cases hw
        rw [← hstatus]
        exact .inr hterminal
    · cases h
  · cases h
  · cases h

/-- A limit given as an integer is that natural number (R178). -/
theorem limitOf_some {n : Int} {limit : Option Nat} (h : limitOf (some n) = some limit) : 0 ≤ n ∧ limit = some n.toNat := by
  simp only [limitOf] at h
  split at h <;> cases h
  exact ⟨not_lt.1 ‹_›, rfl⟩

/-- A whole run that ends in a pause ran its cycles to it, from the start with its limits. -/
theorem runTransaction_pause {fuel : Nat} {a b : Option Int} {s t : State} {r : RunResult}
    (h : runTransaction fuel a b s = some (t, r)) (hr : r = .pausedOnOutputCount ∨ r = .pausedOnInputCount) :
    ∃ mo mi, limitOf a = some mo ∧ limitOf b = some mi ∧ t.status = r.status ∧
      runCycles fuel (s.startRun mo mi) = some t := by
  obtain ⟨mo, mi, ha, hb, hstatus, hcycles | hterminal⟩ := runTransaction_cases h
  · exact ⟨mo, mi, ha, hb, hstatus, hcycles⟩
  · obtain rfl | rfl := hr <;> simp [RunResult.status] at hterminal

/-- Settles O47: the log grows as OUT_COUNT does from 0, and the pause stands where OUT_COUNT is the limit. -/
theorem outputPauseMeansExactlyTheLimit : Obligations.OutputPauseMeansExactlyTheLimit := by
  intro fuel n mi s t h
  obtain ⟨mo, mi, hlimit, -, hstatus, hcycles⟩ := runTransaction_pause h (.inl rfl)
  obtain ⟨hn, rfl⟩ := limitOf_some hlimit
  obtain ⟨hreasons, hmaxOut, -⟩ := runCycles_startRun hcycles
  obtain ⟨new, hout, hcount⟩ : AppendsOutputs (s.startRun (some n.toNat) mi) t :=
    runCycles_preserves (fun _ hstep hu => hu.step hstep) hcycles (.refl _)
  have hreached : n.toNat = t.outCount := Option.some.inj (hmaxOut.symm.trans (hreasons.output_pause hstatus))
  refine ⟨hn, ?_⟩
  rw [hreached, hout, hcount]
  simp

/-- Settles O48: the pause stands where IN_COUNT is the limit, at an IN. -/
theorem inputPauseStandsAtTheNextInput : Obligations.InputPauseStandsAtTheNextInput := by
  intro fuel n mo s t h
  obtain ⟨mo, mi, -, hlimit, hstatus, hcycles⟩ := runTransaction_pause h (.inr rfl)
  obtain ⟨hn, rfl⟩ := limitOf_some hlimit
  obtain ⟨hreasons, -, hmaxIn⟩ := runCycles_startRun hcycles
  obtain ⟨hreached, hip, hfetch⟩ := hreasons.input_pause hstatus
  exact ⟨hn, Option.some.inj (hreached.symm.trans hmaxIn), hip, hfetch⟩

/-- A step that ends a run leaves a status that says how. -/
theorem StepOutcome.status_ne_running {s t : State} (h : StepOutcome s t) (hactive : s.active = true)
    (hended : t.active = false) : t.status ≠ .running := by
  cases h with
  | goesOn hcontrol => exact absurd (hcontrol.2.1.symm.trans hended) (by simp [hactive])
  | pausesOnOutput | pausesOnInput | faults | halts => nofun

/-- At rest with the invariant and a status that is not Running there is a result (R189): Faulted has its record. -/
theorem runResult_of_inv {s : State} (hs : s.Inv) (hrest : s.active = false) (hstatus : s.status ≠ .running) :
    ∃ r, runResult s = some r := by
  cases h : s.status with
  | running => exact absurd h hstatus
  | pausedOnOutputCount | pausedOnInputCount | halted => simp [runResult, hrest, h]
  | faulted =>
    obtain ⟨f, hf⟩ := Option.isSome_iff_exists.1 ((State.inv_iff.1 hs).2.faulted_iff.1 h)
    simp [runResult, hrest, h, hf]

/-- Settles O49: the invariant holds to the end of the run, whose last step left a status that is not Running; and a run
without limits has no limit to pause at. -/
theorem endedRunHasAResult : Obligations.EndedRunHasAResult := by
  refine ⟨fun fuel s t hs hactive h => ?result, fun fuel s t r h => ?noLimits⟩
  case result =>
    have hrest := runCycles_rest h
    obtain ⟨hinv, hstatus⟩ : t.Inv ∧ (t.active = false → t.status ≠ .running) :=
      runCycles_preserves (P := fun u => u.Inv ∧ (u.active = false → u.status ≠ .running))
        (fun hu hstep hP => ⟨stepKeepsTheInvariant _ _ hP.1 hstep, (step_outcome hstep).status_ne_running hu⟩) h
        ⟨hs, by simp [hactive]⟩
    exact ⟨hrest, hstatus hrest, runResult_of_inv hinv hrest (hstatus hrest)⟩
  case noLimits =>
    obtain ⟨mo, mi, hmo, hmi, hstatus, hcycles | hterminal⟩ := runTransaction_cases h
    · cases hmo
      cases hmi
      have hpaused := not_paused_of_no_limits hcycles
      cases r with
      | halted => exact .inl rfl
      | fault c => exact .inr ⟨c, rfl⟩
      | pausedOnOutputCount => exact absurd (.inl hstatus) hpaused
      | pausedOnInputCount => exact absurd (.inr hstatus) hpaused
    · cases r with
      | halted => exact .inl rfl
      | fault c => exact .inr ⟨c, rfl⟩
      | pausedOnOutputCount | pausedOnInputCount => simp [RunResult.status] at hterminal

end Sys2Proof.Machine

/-! ## A paused run that is resumed (R174): one run without limits follows it -/

namespace Sys2Proof.Machine

/-- Every run that ends from `w` has a run from `v` that ends in the same state. -/
def LeadsTo (v w : State) : Prop := ∀ (k : Nat) (u : State), runCycles k w = some u → ∃ n, runCycles n v = some u

theorem LeadsTo.refl (v : State) : LeadsTo v v := fun k _ h => ⟨k, h⟩

theorem LeadsTo.trans {v w x : State} (hvw : LeadsTo v w) (hwx : LeadsTo w x) : LeadsTo v x := fun k u h => by
  obtain ⟨n, hn⟩ := hwx k u h
  exact hvw n u hn

theorem LeadsTo.of_step {v w : State} (hactive : v.active = true) (h : step v = .next w) : LeadsTo v w :=
  fun k _ hk => ⟨k + 1, by rwa [runCycles_succ_of_step hactive h]⟩

/-- `v` stands where `s` stands in its run, but without limits. -/
structure Follows (s v : State) : Prop where
  bare_eq : s.bare = v.bare
  maxOut : v.maxOut = none
  maxIn : v.maxIn = none
  running_of_active : s.active = true → s.status = .running
  not_paused : ¬ s.Paused

/-- Without limits a step does not pause. -/
theorem StepOutcome.not_paused {s t : State} (h : StepOutcome s t) (hout : s.maxOut = none) (hin : s.maxIn = none)
    (hs : ¬ s.Paused) : ¬ t.Paused := by
  cases h with
  | goesOn hcontrol => rwa [State.Paused, hcontrol.1]
  | pausesOnOutput hlimit => simp [hout] at hlimit
  | pausesOnInput _ _ _ hlimit => simp [hin] at hlimit
  | faults | halts => simp

/-- A step that does not pause is followed by a step. -/
theorem Follows.step {s v t : State} (hf : Follows s v) (hactive : s.active = true) (h : Machine.step s = .next t)
    (ht : ¬ t.Paused) : ∃ w, v.active = true ∧ Machine.step v = .next w ∧ Follows t w := by
  obtain ⟨-, hstatus, hactive', -⟩ := bare_eq_iff.1 hf.bare_eq
  have hv : v.active = true := hactive' ▸ hactive
  obtain ⟨w, hw⟩ := step_answers hv
  obtain ⟨hout, hin, -⟩ := step_sameLimits hw
  have hunpaused : ¬ v.Paused := by
    rw [State.Paused, ← hstatus]
    exact hf.not_paused
  have hw' : ¬ w.Paused := (step_outcome hw).not_paused hf.maxOut hf.maxIn hunpaused
  exact ⟨w, hv, hw, step_bare_congr hf.bare_eq hactive h hw ht hw', hout.trans hf.maxOut, hin.trans hf.maxIn,
    (step_outcome h).running_of_active (hf.running_of_active hactive), ht⟩

/-- A step that pauses ends the run, and the run resumed from there without limits is followed from where the pause was. -/
theorem Follows.resume {s v t : State} (hf : Follows s v) (hactive : s.active = true) (h : Machine.step s = .next t)
    (ht : t.Paused) : t.active = false ∧ Follows (t.startRun none none) v := by
  have hrunning : s.status = .running := hf.running_of_active hactive
  have hpause : t.active = false ∧ SameProgramState t s ∧ t.fault = s.fault := by
    cases step_outcome h with
    | goesOn hcontrol => simp [State.Paused, hcontrol.1, hrunning] at ht
    | pausesOnOutput | pausesOnInput => exact ⟨rfl, ⟨rfl, rfl, rfl, rfl, rfl, rfl, rfl⟩, rfl⟩
    | faults | halts => simp [State.Paused] at ht
  obtain ⟨hrest, hsame, hfault⟩ := hpause
  have hresumed : (t.startRun none none).bare = s.bare := bare_eq_iff.2 ⟨hsame, hrunning.symm, hactive.symm, hfault⟩
  exact ⟨hrest, hresumed.trans hf.bare_eq, hf.maxOut, hf.maxIn, fun _ => rfl, by simp⟩

/-- A run is followed to its end, or to its pause and there what resumes it is. -/
theorem Follows.run {p : State} : ∀ {n : Nat} {s v : State}, Follows s v → runCycles n s = some p →
    ∃ w, LeadsTo v w ∧ (Follows p w ∨ p.Paused ∧ Follows (p.startRun none none) w)
  | n, s, v, hf, h => by
    cases hactive : s.active with
    | false =>
      rw [runCycles_of_rest hactive] at h
      cases h
      exact ⟨v, .refl v, .inl hf⟩
    | true =>
      obtain ⟨m, t, rfl, ht, hrun⟩ := runCycles_cases_of_active hactive h
      by_cases hpaused : t.Paused
      · obtain ⟨hrest, hresumed⟩ := hf.resume hactive ht hpaused
        rw [runCycles_of_rest hrest] at hrun
        cases hrun
        exact ⟨v, .refl v, .inr ⟨hpaused, hresumed⟩⟩
      · obtain ⟨w, hv, hw, hfollows⟩ := hf.step hactive ht hpaused
        obtain ⟨x, hx, hend⟩ := hfollows.run hrun
        exact ⟨x, (LeadsTo.of_step hv hw).trans hx, hend⟩

/-- Settles O46: the run without limits follows the paused run to the pause, and from there the resumed run to its end. -/
theorem pausedRunContinuesAsIfUninterrupted : Obligations.PausedRunContinuesAsIfUninterrupted := by
  intro s p u mo mi j k _ _ _ _ hrun hpaused hresumed
  have hstart : Follows (s.startRun mo mi) (s.startRun none none) := ⟨rfl, rfl, rfl, fun _ => rfl, by simp⟩
  obtain ⟨w, hw, hp | ⟨-, hp⟩⟩ := hstart.run hrun
  · exact absurd hpaused hp.not_paused
  · obtain ⟨x, hx, hu | ⟨hpaused', -⟩⟩ := hp.run hresumed
    · obtain ⟨hsame, hstatus, hactive, hfault⟩ := bare_eq_iff.1 hu.bare_eq
      have hrest : x.active = false := hactive ▸ runCycles_rest hresumed
      obtain ⟨n, hn⟩ := hw.trans hx 0 x (runCycles_of_rest hrest 0)
      exact ⟨n, x, hn, hsame, hstatus, hfault⟩
    · exact absurd hpaused' (not_paused_of_no_limits hresumed)

end Sys2Proof.Machine

/-! ## The host's permissions (R171), and each operation where it is permitted -/

namespace Sys2Proof.Machine

theorem perform_of_permitted {op : HostOp} {s : State} (h : notPermitted op s = none) : perform op s = transact op s := by
  simp [perform, h]

theorem perform_of_not_permitted {op : HostOp} {s : State} {r : Refusal} (h : notPermitted op s = some r) :
    perform op s = .refused r := by
  simp [perform, h]

/-- At rest on a machine that is not Faulted every operation is permitted. -/
theorem perform_at_rest {op : HostOp} {s : State} (hrest : s.active = false) (hstatus : s.status ≠ .faulted) :
    perform op s = transact op s :=
  perform_of_permitted (notPermitted_eq_none_at_rest hrest hstatus)

/-- At rest `new`, `run`, `status` and `fault` are permitted in every status. -/
theorem perform_of_allowed {op : HostOp} {s : State} (hrest : s.active = false) (hop : op.allowedAfterFault = true) :
    perform op s = transact op s :=
  perform_of_permitted (by simp [notPermitted, hrest, hop])

/-- At rest on a Faulted machine the other operations are refused (decision D11). -/
theorem perform_after_fault {op : HostOp} {s : State} (hrest : s.active = false) (hstatus : s.status = .faulted)
    (hop : op.allowedAfterFault = false) : perform op s = .refused .hostAfterFault :=
  perform_of_not_permitted (by simp [notPermitted, hrest, hstatus, hop])

/-! ### `run` -/

@[simp] theorem limitOf_map_ofNat (limit : Option Nat) : limitOf (limit.map Int.ofNat) = some limit := by
  cases limit with
  | none => rfl
  | some n => simp [limitOf]

theorem limitOf_of_neg {n : Int} (h : n < 0) : limitOf (some n) = none := by simp [limitOf, h]

/-- At rest `run` with legal limits is what the status says of it. -/
theorem perform_run {s : State} (hrest : s.active = false) (mo mi : Option Nat) :
    perform (.run (mo.map Int.ofNat) (mi.map Int.ofNat)) s = hostRun mo mi s := by
  rw [perform_of_allowed hrest rfl]
  simp [transact]

/-- At rest `run` with a limit that is refused is refused. -/
theorem perform_run_of_negative {s : State} {a b : Option Int} (hrest : s.active = false)
    (h : limitOf a = none ∨ limitOf b = none) : perform (.run a b) s = .refused .negativeLimit := by
  rw [perform_of_allowed hrest rfl, transact]
  obtain h | h := h
  · simp [h]
  · cases limitOf a <;> simp [h]

/-- Settles O35: the nine operations are not among those a Faulted machine permits; the others answer from the record. -/
theorem faultedInstanceAnswersOnlyItsFault : Obligations.FaultedInstanceAnswersOnlyItsFault := by
  intro s f hrest hstatus hfault
  refine ⟨fun mo mi => ?run, fun x a v xs op hop => perform_after_fault hrest hstatus ?refused, ?status, ?fault,
    step_of_latched hrest hfault⟩
  case run =>
    rw [perform_run hrest]
    simp [hostRun, hstatus, hfault]
  case refused =>
    simp only [List.mem_cons, List.not_mem_nil, or_false] at hop
    obtain rfl | rfl | rfl | rfl | rfl | rfl | rfl | rfl | rfl := hop <;> rfl
  case status =>
    rw [perform_of_allowed hrest rfl, ← hstatus]
    rfl
  case fault =>
    rw [perform_of_allowed hrest rfl, ← hfault]
    rfl

/-- Settles O50: in these statuses `run` is the start of a run. -/
theorem runStartsTheEngine : Obligations.RunStartsTheEngine := by
  intro s mo mi hrest hstatus
  obtain ⟨hhalted, hfaulted⟩ := not_terminal_of_starts hstatus
  rw [perform_run hrest, hostRun_starts mo mi hhalted hfaulted]
  rfl

/-- Settles O51: a halted machine answers its result; a negative limit is no limit. -/
theorem runOnAHaltedInstanceOrWithANegativeLimit : Obligations.RunOnAHaltedInstanceOrWithANegativeLimit := by
  refine ⟨fun s mo mi hrest hstatus => ?halted, fun s n m hrest hn =>
    ⟨perform_run_of_negative hrest (.inl (limitOf_of_neg hn)), perform_run_of_negative hrest (.inr (limitOf_of_neg hn))⟩⟩
  case halted =>
    rw [perform_run hrest]
    simp [hostRun, hstatus]

/-! ### Input, cells, the accessors and `new` -/

/-- Settles O53: both are permitted and append. -/
theorem addInputAppendsAtTheTail : Obligations.AddInputAppendsAtTheTail :=
  fun _ _ _ hrest hstatus => ⟨perform_at_rest hrest hstatus, perform_at_rest hrest hstatus⟩

/-- Settles O54: both are permitted and check the sign of the address. -/
theorem hostReadsAndWritesOneCell : Obligations.HostReadsAndWritesOneCell := by
  intro s a v hrest hstatus
  rw [perform_at_rest hrest hstatus, perform_at_rest hrest hstatus]
  refine ⟨fun ha => ?address, fun ha => ?negative⟩
  case address =>
    have hcheck : checkAddress a = .ok a.toNat := checkAddress_ok.2 ⟨ha, rfl⟩
    simp [transact, hcheck, State.storeCell]
  case negative =>
    have hcheck : checkAddress a = .error a := checkAddress_error.2 ⟨ha, rfl⟩
    simp [transact, hcheck]

/-- Settles O56: each is permitted where it is stated and answers its register. -/
theorem accessorsAnswerTheirRegister : Obligations.AccessorsAnswerTheirRegister := fun _ hrest =>
  ⟨perform_of_allowed hrest rfl, perform_of_allowed hrest rfl, fun hstatus =>
    ⟨perform_at_rest hrest hstatus, perform_at_rest hrest hstatus, perform_at_rest hrest hstatus⟩⟩

/-- Settles O58: `new` is permitted at rest and constructs by its arguments alone. -/
theorem newBuildsAFreshInstance : Obligations.NewBuildsAFreshInstance := fun _ _ _ _ hrest =>
  ⟨perform_of_allowed hrest rfl, perform_of_allowed hrest rfl, perform_of_allowed hrest rfl, perform_of_allowed hrest rfl,
    fun _ => ⟨rfl, rfl, rfl, rfl, rfl, rfl, rfl, rfl, rfl, rfl, rfl, rfl, rfl⟩⟩

/-! ### `diagnostic` -/

/-- The query answers the last output exactly when every output before it is 0 (R186). -/
theorem diagnosticOf_append_singleton (v : Int) :
    ∀ front : List Int, diagnosticOf (front ++ [v]) = if ∀ z ∈ front, z = 0 then some v else none
  | [] => by simp [diagnosticOf]
  | [x] => by simp [diagnosticOf]
  | x :: y :: front => by
    have ih := diagnosticOf_append_singleton v (y :: front)
    by_cases hx : x = 0
    · simpa [diagnosticOf, hx] using ih
    · simp [diagnosticOf, hx]

/-- At rest on a machine that is not Faulted the query is answered from the log. -/
theorem perform_diagnostic {s : State} (hrest : s.active = false) (hstatus : s.status ≠ .faulted) :
    perform .diagnostic s = .next (s, ((diagnosticOf s.out).map Reply.value).getD .badDiagnostic) := by
  rw [perform_at_rest hrest hstatus, transact]
  cases diagnosticOf s.out <;> rfl

/-- Settles O55: the log is empty or has a last output, and what is before it decides. -/
theorem diagnosticChecksAllButTheLastOutput : Obligations.DiagnosticChecksAllButTheLastOutput := by
  intro s hrest hstatus
  rw [perform_diagnostic hrest hstatus]
  refine ⟨fun zeros v hout hzeros => ?value, ?bad⟩
  case value =>
    rw [hout, diagnosticOf_append_singleton, if_pos hzeros]
    rfl
  case bad =>
    rintro (hout | ⟨front, v, hout, z, hz, hne⟩)
    · rw [hout]
      rfl
    · rw [hout, diagnosticOf_append_singleton, if_neg fun hzeros => hne (hzeros z hz)]
      rfl

/-! ### During a run, and the interactive hold (R144) -/

theorem HostOp.suppliesInput_iff {op : HostOp} :
    op.suppliesInput = true ↔ (∃ x, op = .addInput x) ∨ ∃ xs, op = .addInputs xs := by
  cases op <;> simp [HostOp.suppliesInput]

theorem perform_while_active {op : HostOp} {s : State} (hactive : s.active = true)
    (h : holding s = false ∨ op.suppliesInput = false) : perform op s = .refused .hostWhileActive :=
  perform_of_not_permitted (by obtain h | h := h <;> simp [notPermitted, hactive, h])

/-- During a hold the operations that supply input are permitted. -/
theorem perform_while_holding {op : HostOp} {s : State} (hhold : holding s = true) (hop : op.suppliesInput = true) :
    perform op s = transact op s := by
  obtain ⟨hactive, -⟩ := holding_cases hhold
  exact perform_of_permitted (by simp [notPermitted, hactive, hhold, hop])

/-- Settles O57: the permission asks for a hold and for an operation that supplies input; `holding_cases` says when one is. -/
theorem hostActsOnlyAtRest : Obligations.HostActsOnlyAtRest := by
  intro s hactive
  refine ⟨fun op hop => perform_while_active hactive (hop.imp_right ?_), fun hhold => ⟨?hold, fun x => ?one, fun xs => ?many⟩⟩
  · rintro ⟨hone, hmany⟩
    rw [← Bool.not_eq_true, HostOp.suppliesInput_iff]
    rintro (⟨x, rfl⟩ | ⟨xs, rfl⟩)
    · exact hone x rfl
    · exact hmany xs rfl
  case hold =>
    obtain ⟨-, -, -, hlimit, hqueue, hmode, dst, _, hi, -⟩ := holding_cases hhold
    exact ⟨hmode, hqueue, hlimit, dst, hi⟩
  case one => exact perform_while_holding hhold rfl
  case many => exact perform_while_holding hhold rfl

/-- What is fetched is well formed: the mode check has come before it (R104). -/
theorem wellFormed_of_fetch {s : State} {i : Instr} (h : fetch s = .ok i) : i.wellFormed = true := by
  unfold fetch at h
  split at h
  · cases h
  · rename_i hd hw
    cases h
    exact Header.wellFormed_assemble (decodeHeader_eq_ok_iff.1 hw).1 _

/-- At an IN whose destination resolves the step is what IN does next. -/
theorem AtFetch.step_of_inp {s : State} {dst : Param} {d : Nat} (hs : AtFetch s) (hi : fetch s = .ok (.inp dst))
    (hd : resolveWrite s dst = .ok d) : step s = input d s := by
  rw [hs.step_of_ok hi, exec_inp_of_resolved (wellFormed_inp_iff.1 (wellFormed_of_fetch hi)) hd]

/-- Settles O28: the hold looks at the queue again at each step, and finds the host's value there. -/
theorem holdLastsUntilTheHostSuppliesAValue : Obligations.HoldLastsUntilTheHostSuppliesAValue := by
  intro s x hhold hwf
  obtain ⟨hactive, hmaxOut, hip, hmaxIn, hqueue, hmode, dst, d, hi, hd⟩ := holding_cases hhold
  have hs : AtFetch s := ⟨hactive, hmaxOut, hip⟩
  have hu : AtFetch (s.addInputs [x]) := ⟨hactive, hmaxOut, hip⟩
  have hqueue' : (s.addInputs [x]).inq = [x] := by simp [hqueue]
  refine ⟨?_, hqueue, s.addInputs [x], _, dst, d, perform_while_holding hhold rfl, hi, hd,
    (hu.step_of_inp hi hd).trans (input_of_queued d hmaxIn hqueue'), ?_, ?_, rfl, rfl, rfl, rfl, rfl, hactive⟩
  · rw [hs.step_of_inp hi hd, input_of_interactive d hmaxIn hqueue hmode]
  · exact Memory.read_write_same hwf d x
  · exact fun a ha => Memory.read_write_of_ne hwf x ha

end Sys2Proof.Machine

/-! ## Several machines side by side (R35, R217) -/

namespace Sys2Proof.Machine

/-- A move that advances no run while another goes on has its effect, on its own machine alone. -/
theorem actOn_of_next {k : Nat} {e : Event} {xs : List State} {s t : State} (hk : xs[k]? = some s) (h : e.act s = .next t)
    (hothers : ¬ (e.advances = true ∧ anotherRuns k xs = true)) : actOn k e xs = .next (xs.set k t) := by
  simp [actOn, hk, h, hothers]

theorem actOn_of_anotherRuns {k : Nat} {e : Event} {xs : List State} {s : State} (hk : xs[k]? = some s)
    (he : e.advances = true) (hothers : anotherRuns k xs = true) : actOn k e xs = .refused .anotherInstanceRuns := by
  simp [actOn, hk, he, hothers]

theorem getElem?_set_eq_some {xs : List State} {k : Nat} {s : State} (hk : xs[k]? = some s) (t : State) :
    (xs.set k t)[k]? = some t :=
  List.getElem?_set_self (List.getElem?_eq_some_iff.1 hk).1

/-- One machine's next state keeps one run at a time, if it is inside a run only where it was before or no other is. -/
theorem OneRunAtATime.set {xs : List State} {k : Nat} {s t : State} (h : OneRunAtATime xs) (hk : xs[k]? = some s)
    (ht : t.active = true → s.active = true ∨ ∀ j u, j ≠ k → xs[j]? = some u → u.active = false) :
    OneRunAtATime (xs.set k t) := by
  have hother (j : Nat) (u : State) (hj : j ≠ k) (hu : xs[j]? = some u) (hactive : u.active = true)
      (hrun : t.active = true) : False := by
    obtain hs | hrest := ht hrun
    · exact hj (h j k u s hu hk hactive hs)
    · simp [hrest j u hj hu] at hactive
  intro j j' u u' hu hu' hactive hactive'
  by_cases hj : j = k <;> by_cases hj' : j' = k
  · rw [hj, hj']
  · subst hj
    rw [getElem?_set_eq_some hk] at hu
    rw [List.getElem?_set_ne (Ne.symm hj')] at hu'
    cases hu
    exact (hother j' u' hj' hu' hactive' hactive).elim
  · subst hj'
    rw [getElem?_set_eq_some hk] at hu'
    rw [List.getElem?_set_ne (Ne.symm hj)] at hu
    cases hu'
    exact (hother j u hj hu hactive hactive').elim
  · rw [List.getElem?_set_ne (Ne.symm hj)] at hu
    rw [List.getElem?_set_ne (Ne.symm hj')] at hu'
    exact h j j' u u' hu hu' hactive hactive'

/-- One more machine at rest keeps one run at a time. -/
theorem OneRunAtATime.append {xs : List State} {s : State} (h : OneRunAtATime xs) (hs : s.active = false) :
    OneRunAtATime (xs ++ [s]) := by
  have hold (j : Nat) (u : State) (hu : (xs ++ [s])[j]? = some u) (hactive : u.active = true) : xs[j]? = some u := by
    rcases Nat.lt_or_ge j xs.length with hj | hj
    · rwa [List.getElem?_append_left hj] at hu
    · rw [List.getElem?_append_right hj] at hu
      have hmem : u ∈ [s] := List.mem_of_getElem? hu
      simp [List.mem_singleton.1 hmem, hs] at hactive
  intro j j' u u' hu hu' hactive hactive'
  exact h j j' u u' (hold j u hu hactive) (hold j' u' hu' hactive') hactive hactive'

/-- Everything a move of the system can do: one more machine is constructed, or one moves. -/
theorem systemEvent_act_cases {m : SystemEvent} {xs ys : List State} (h : m.act xs = .next ys) :
    (∃ p ins d b mode, m = .create p ins d b ∧ ys = xs ++ [construct p ins mode]) ∨
      ∃ k e s t, m = .move k e ∧ xs[k]? = some s ∧ e.act s = .next t ∧ ys = xs.set k t ∧
        (e.advances = true → anotherRuns k xs = false) := by
  cases m with
  | create p ins d b =>
    simp only [SystemEvent.act] at h
    split at h <;> cases h
    exact .inl ⟨p, ins, d, b, _, rfl, rfl⟩
  | move k e =>
    obtain ⟨s, t, hs, ht, hys, hothers⟩ := actOn_cases h
    exact .inr ⟨k, e, s, t, rfl, hs, ht, hys, hothers⟩

theorem systemEvent_act_oneRunAtATime {m : SystemEvent} {xs ys : List State} (hxs : OneRunAtATime xs)
    (h : m.act xs = .next ys) : OneRunAtATime ys := by
  obtain ⟨p, ins, _, _, mode, -, rfl⟩ | ⟨k, e, s, t, -, hs, ht, rfl, hothers⟩ := systemEvent_act_cases h
  · exact hxs.append (construct_active p ins mode)
  · refine hxs.set hs fun hrun => ?_
    cases he : e.advances with
    | false => exact .inl (act_active_of_not_advances he ht hrun)
    | true =>
      refine .inr fun j u hj hu => Bool.eq_false_iff.2 fun hactive => ?_
      exact absurd (anotherRuns_iff.2 ⟨j, u, hj, hu, hactive⟩) (by simp [hothers he])

/-- A list of moves of the system that has an outcome is a first move and the rest. -/
theorem systemSession_cons_cases {m : SystemEvent} {ms : List SystemEvent} {xs ys : List State}
    (h : systemSession (m :: ms) xs = .next ys) : ∃ zs, m.act xs = .next zs ∧ systemSession ms zs = .next ys := by
  unfold systemSession at h
  split at h
  · exact ⟨_, ‹_›, h⟩
  · cases h
  · cases h

theorem session_cons_of_next {e : Event} {es : List Event} {s t : State} (h : e.act s = .next t) :
    session (e :: es) s = session es t := by
  simp [session, h]

theorem systemSession_oneRunAtATime {ys : List State} : ∀ {ms : List SystemEvent} {xs : List State}, OneRunAtATime xs →
    systemSession ms xs = .next ys → OneRunAtATime ys
  | [], _, hxs, h => by
    cases h
    exact hxs
  | _ :: _, _, hxs, h => by
    obtain ⟨zs, hm, hms⟩ := systemSession_cons_cases h
    exact systemSession_oneRunAtATime (systemEvent_act_oneRunAtATime hxs hm) hms

/-- What a list of moves of the system does to a machine is what the machine's own moves in it do. -/
theorem session_movesOf {k : Nat} {ys : List State} : ∀ {ms : List SystemEvent} {xs : List State} {s : State},
    xs[k]? = some s → systemSession ms xs = .next ys → ∃ t, ys[k]? = some t ∧ session (movesOf k ms) s = .next t
  | [], _, s, hk, h => by
    cases h
    exact ⟨s, hk, rfl⟩
  | m :: ms, xs, s, hk, h => by
    obtain ⟨zs, hm, hms⟩ := systemSession_cons_cases h
    obtain ⟨p, ins, d, b, mode, rfl, rfl⟩ | ⟨j, e, u, v, rfl, hu, hv, rfl, -⟩ := systemEvent_act_cases hm
    · have hlt : k < xs.length := (List.getElem?_eq_some_iff.1 hk).1
      exact session_movesOf (ms := ms) (by rwa [List.getElem?_append_left hlt]) hms
    · by_cases hj : j = k
      · subst hj
        rw [hk] at hu
        cases hu
        rw [movesOf, if_pos rfl, session_cons_of_next hv]
        exact session_movesOf (getElem?_set_eq_some hk v) hms
      · rw [movesOf, if_neg hj]
        exact session_movesOf (by rwa [List.getElem?_set_ne hj]) hms

/-- Settles O59: a move sets one place of the list; it is refused exactly while another run goes on and it would advance one; the
last two parts go by induction on the moves. -/
theorem instancesAreIsolated : Obligations.InstancesAreIsolated := by
  refine ⟨fun k e xs ys h => ?alone, fun k j e xs s u hj hk hu hactive he => ?refused,
    fun k e xs s t hk h hrest => ?effect, fun ms xs ys => systemSession_oneRunAtATime,
    fun ms xs ys k s => session_movesOf⟩
  case alone =>
    obtain ⟨s, t, hs, ht, rfl, -⟩ := actOn_cases h
    exact ⟨fun j hj => List.getElem?_set_ne (Ne.symm hj), s, t, hs, getElem?_set_eq_some hs t, ht⟩
  case refused =>
    have hadvances : e.advances = true := by obtain rfl | ⟨a, b, rfl⟩ := he <;> rfl
    exact actOn_of_anotherRuns hk hadvances (anotherRuns_iff.2 ⟨j, u, hj, hu, hactive⟩)
  case effect =>
    refine actOn_of_next hk h fun hothers => ?_
    obtain ⟨j, u, hj, hu, hactive⟩ := anotherRuns_iff.1 hothers.2
    simp [hrest j u hj hu] at hactive

end Sys2Proof.Machine
